-- ==== Sys2Proof/Word.lean ====
section
/-! DEFINITION. The word types of the machine (00_scope.md R10, R13, R15; 30_encoding.md R111). -/

namespace Sys2Proof

/-- A memory cell or general register: 8 bits (R10). -/
abbrev Byte := BitVec 8

/-- An instruction word, and the width of PC, I and a stack entry: 16 bits (R10, R110). -/
abbrev Word := BitVec 16

/-- A register index, the 4-bit field `x` or `y` of an instruction (R30, R111, R114): every value names a register. -/
abbrev Reg := BitVec 4

/-- The 4-bit immediate `n`, the sprite height of Dxyn (R111, R113). -/
abbrev Imm4 := BitVec 4

/-- The 8-bit immediate `kk` (R111, R113). -/
abbrev Imm8 := BitVec 8

/-- The 12-bit address or immediate `nnn` (R111, R113). -/
abbrev Imm12 := BitVec 12

/-- The keypad input KEY: 16 bits, bit k set when key k is pressed (10_state.md R60). Which bit stands for which
key is the model's own packing, seen by no program (DESIGN CHOICE, log entry 11). -/
abbrev Keypad := BitVec 16

end Sys2Proof
end

