-- ==== Sys2Proof/Config.lean ====
section
/-! DEFINITION. The configuration parameters of 00_scope.md R11 with their defaults, and the free inputs of a cycle
(10_state.md R60 to R62): values no proof can see. -/

namespace Sys2Proof

/-- `SHIFT_SOURCE`: the operand of 8xy6 and 8xyE (42_alu.md R219). -/
inductive ShiftSource where
  | x
  | y
  deriving DecidableEq, Repr

/-- `DECODE_MODE`: how much of families 0x0, 0x5 and 0x9 is decoded (30_encoding.md R121). -/
inductive DecodeMode where
  | strict
  | family
  deriving DecidableEq, Repr

/-- `TIMER_TICK_SOURCE`: when the post-execute tick is enabled (40_cycle.md R150). -/
inductive TickSource where
  | everyCycle
  | external
  deriving DecidableEq, Repr

/-- `KEY_WAIT_TRIGGER`: what ends an Fx0A wait (45_keypad_timers.md R304). -/
inductive KeyWaitTrigger where
  | edge
  | level
  deriving DecidableEq, Repr

/-- `DRAW_VERTICAL`: what Dxyn does at the bottom edge (44_display.md R281). -/
inductive DrawVertical where
  | clip
  | wrap
  deriving DecidableEq, Repr

/-- The six parameters of R11. They are fixed for a machine; State carries them so that every statement holds for every
setting (DESIGN CHOICE, log entry 1). -/
structure Config where
  shiftSource    : ShiftSource
  decodeMode     : DecodeMode
  /-- `FONT_BASE`, 0x000 to 0x1B0 (R11; WellFormed.lean checks the range). -/
  fontBase       : Nat
  tickSource     : TickSource
  keyWaitTrigger : KeyWaitTrigger
  drawVertical   : DrawVertical
  deriving DecidableEq, Repr

/-- The defaults the spec fixes for this hardware (R11). -/
def Config.default : Config where
  shiftSource    := .x
  decodeMode     := .strict
  fontBase       := 0x000
  tickSource     := .everyCycle
  keyWaitTrigger := .edge
  drawVertical   := .clip

/-- The inputs of one CYCLE: KEY (R60), TICK (R61) and RND (R62). -/
structure CycleInput where
  key  : Keypad
  tick : Bool
  rnd  : Byte
  deriving DecidableEq, Repr

/-- The key levels of a CYCLE the host has supplied no input for: any value (93_implementation_defined.md U8, log
entry 2). -/
opaque Config.freeKey : Nat → Keypad

/-- The TICK input of such a CYCLE: any value (U9, log entry 2). -/
opaque Config.freeTick : Nat → Bool

/-- The random byte of such a CYCLE: a draw under no law (00_scope.md R12, U7, log entry 2). -/
opaque Config.freeRnd : Nat → Byte

/-- The free input of the CYCLE numbered `n`. -/
def Config.freeInput (n : Nat) : CycleInput :=
  ⟨Config.freeKey n, Config.freeTick n, Config.freeRnd n⟩

end Sys2Proof
end

