-- ==== Sys2Proof/Syntax.lean ====
section
/-! DEFINITION. The instructions: one constructor per row of spec/opcode_table.json (00_scope.md R3), with the typed
operand fields of 30_encoding.md R111 to R114. The names follow the variant names of R129. -/

namespace Sys2Proof

/-- The 34 instructions, in the table's order. -/
inductive Instr where
  /-- 00E0 `CLS` (R280). -/
  | cls
  /-- 00EE `RET` (R181). -/
  | ret
  /-- 1nnn `JP nnn` (R182). -/
  | jp (nnn : Imm12)
  /-- 2nnn `CALL nnn` (R183). -/
  | call (nnn : Imm12)
  /-- 3xkk `SE Vx, kk` (R184). -/
  | seImm (x : Reg) (kk : Imm8)
  /-- 4xkk `SNE Vx, kk` (R185). -/
  | sneImm (x : Reg) (kk : Imm8)
  /-- 5xy0 `SE Vx, Vy` (R186). -/
  | seReg (x y : Reg)
  /-- 6xkk `LD Vx, kk` (R210). -/
  | ldImm (x : Reg) (kk : Imm8)
  /-- 7xkk `ADD Vx, kk` (R211). -/
  | addImm (x : Reg) (kk : Imm8)
  /-- 8xy0 `LD Vx, Vy` (R212). -/
  | ldReg (x y : Reg)
  /-- 8xy1 `OR Vx, Vy` (R213). -/
  | orReg (x y : Reg)
  /-- 8xy2 `AND Vx, Vy` (R214). -/
  | andReg (x y : Reg)
  /-- 8xy3 `XOR Vx, Vy` (R215). -/
  | xorReg (x y : Reg)
  /-- 8xy4 `ADD Vx, Vy` (R217). -/
  | addReg (x y : Reg)
  /-- 8xy5 `SUB Vx, Vy` (R218). -/
  | sub (x y : Reg)
  /-- 8xy6 `SHR Vx, Vy` (R220). -/
  | shr (x y : Reg)
  /-- 8xy7 `SUBN Vx, Vy` (R221). -/
  | subn (x y : Reg)
  /-- 8xyE `SHL Vx, Vy` (R222). -/
  | shl (x y : Reg)
  /-- 9xy0 `SNE Vx, Vy` (R187). -/
  | sneReg (x y : Reg)
  /-- Annn `LD I, nnn` (R251). -/
  | ldI (nnn : Imm12)
  /-- Bnnn `JP V0, nnn` (R188). -/
  | jpV0 (nnn : Imm12)
  /-- Cxkk `RND Vx, kk` (R223). -/
  | rnd (x : Reg) (kk : Imm8)
  /-- Dxyn `DRW Vx, Vy, n` (R282). -/
  | drw (x y : Reg) (n : Imm4)
  /-- Ex9E `SKP Vx` (R301). -/
  | skp (x : Reg)
  /-- ExA1 `SKNP Vx` (R302). -/
  | sknp (x : Reg)
  /-- Fx07 `LD Vx, DT` (R303). -/
  | ldVxDt (x : Reg)
  /-- Fx0A `LD Vx, K` (R304). -/
  | ldVxK (x : Reg)
  /-- Fx15 `LD DT, Vx` (R305). -/
  | ldDtVx (x : Reg)
  /-- Fx18 `LD ST, Vx` (R306). -/
  | ldStVx (x : Reg)
  /-- Fx1E `ADD I, Vx` (R252). -/
  | addIVx (x : Reg)
  /-- Fx29 `LD F, Vx` (R253). -/
  | ldFVx (x : Reg)
  /-- Fx33 `LD B, Vx` (R254). -/
  | ldBVx (x : Reg)
  /-- Fx55 `LD [I], Vx` (R255). -/
  | ldMemVx (x : Reg)
  /-- Fx65 `LD Vx, [I]` (R256). -/
  | ldVxMem (x : Reg)
  deriving DecidableEq, Repr

/-- The variant names of R129, which a DIAG record carries (40_cycle.md R155), with `UNKNOWN`. -/
inductive Variant where
  | cls | ret | jp | call | seImm | sneImm | seReg | ldImm | addImm | ldReg | orReg | andReg | xorReg | addReg
  | sub | shr | subn | shl | sneReg | ldI | jpV0 | rnd | drw | skp | sknp | ldVxDt | ldVxK | ldDtVx | ldStVx
  | addIVx | ldFVx | ldBVx | ldMemVx | ldVxMem | unknown
  deriving DecidableEq, Repr

/-- The variant of an instruction. -/
def Instr.variant : Instr → Variant
  | .cls => .cls
  | .ret => .ret
  | .jp _ => .jp
  | .call _ => .call
  | .seImm _ _ => .seImm
  | .sneImm _ _ => .sneImm
  | .seReg _ _ => .seReg
  | .ldImm _ _ => .ldImm
  | .addImm _ _ => .addImm
  | .ldReg _ _ => .ldReg
  | .orReg _ _ => .orReg
  | .andReg _ _ => .andReg
  | .xorReg _ _ => .xorReg
  | .addReg _ _ => .addReg
  | .sub _ _ => .sub
  | .shr _ _ => .shr
  | .subn _ _ => .subn
  | .shl _ _ => .shl
  | .sneReg _ _ => .sneReg
  | .ldI _ => .ldI
  | .jpV0 _ => .jpV0
  | .rnd _ _ => .rnd
  | .drw _ _ _ => .drw
  | .skp _ => .skp
  | .sknp _ => .sknp
  | .ldVxDt _ => .ldVxDt
  | .ldVxK _ => .ldVxK
  | .ldDtVx _ => .ldDtVx
  | .ldStVx _ => .ldStVx
  | .addIVx _ => .addIVx
  | .ldFVx _ => .ldFVx
  | .ldBVx _ => .ldBVx
  | .ldMemVx _ => .ldMemVx
  | .ldVxMem _ => .ldVxMem

/-- What decode answers for a word: an instruction, or `UNKNOWN(op)` (30_encoding.md R122). -/
inductive Decoded where
  | instr (i : Instr)
  | unknown (op : Word)
  deriving DecidableEq, Repr

/-- The variant name of what decode answered. -/
def Decoded.variant : Decoded → Variant
  | .instr i => i.variant
  | .unknown _ => .unknown

end Sys2Proof
end

