-- ==== Sys2Proof/Decode.lean ====
section
/-! DEFINITION. The decoder of 30_encoding.md R122, total on every word and rejecting by `unknown`; after it the encoder,
written from the formats of R112, and the opcode table as rows of match and mask. -/

namespace Sys2Proof

/-! ### The fields of an instruction word (R111) -/

/-- `h = op[15:12]`, the operation family. -/
def fieldH (op : Word) : BitVec 4 := op.extractLsb' 12 4

/-- `x = op[11:8]`. -/
def fieldX (op : Word) : Reg := op.extractLsb' 8 4

/-- `y = op[7:4]`. -/
def fieldY (op : Word) : Reg := op.extractLsb' 4 4

/-- `n = op[3:0]`. -/
def fieldN (op : Word) : Imm4 := op.extractLsb' 0 4

/-- `kk = op[7:0]`. -/
def fieldKK (op : Word) : Imm8 := op.extractLsb' 0 8

/-- `nnn = op[11:0]`. -/
def fieldNNN (op : Word) : Imm12 := op.extractLsb' 0 12

/-- The word of two fetched bytes, big-endian: the byte at the lower address is bits 15 to 8 (20_memory.md R84, R110). -/
def wordOfBytes (hi lo : Byte) : Word := hi ++ lo

/-! ### Decode (R122) -/

/-- Family 0x0 (R116): STRICT takes the two exact words, FAMILY looks at the low byte only. -/
def decodeFamily0 (mode : DecodeMode) (op : Word) : Decoded :=
  match mode with
  | .strict => if op = 0x00E0 then .instr .cls else if op = 0x00EE then .instr .ret else .unknown op
  | .family =>
    if fieldKK op = 0xE0 then .instr .cls else if fieldKK op = 0xEE then .instr .ret else .unknown op

/-- Families 0x5 and 0x9 (R120): STRICT asks for a low nibble of 0, FAMILY does not look at it. -/
def decodeLowNibble (mode : DecodeMode) (op : Word) (i : Instr) : Decoded :=
  match mode with
  | .strict => if fieldN op = 0 then .instr i else .unknown op
  | .family => .instr i

/-- Family 0x8 (R117). -/
def decodeFamily8 (op : Word) : Decoded :=
  match (fieldN op).toNat with
  | 0x0 => .instr (.ldReg (fieldX op) (fieldY op))
  | 0x1 => .instr (.orReg (fieldX op) (fieldY op))
  | 0x2 => .instr (.andReg (fieldX op) (fieldY op))
  | 0x3 => .instr (.xorReg (fieldX op) (fieldY op))
  | 0x4 => .instr (.addReg (fieldX op) (fieldY op))
  | 0x5 => .instr (.sub (fieldX op) (fieldY op))
  | 0x6 => .instr (.shr (fieldX op) (fieldY op))
  | 0x7 => .instr (.subn (fieldX op) (fieldY op))
  | 0xE => .instr (.shl (fieldX op) (fieldY op))
  | _ => .unknown op

/-- Family 0xE (R118). -/
def decodeFamilyE (op : Word) : Decoded :=
  match (fieldKK op).toNat with
  | 0x9E => .instr (.skp (fieldX op))
  | 0xA1 => .instr (.sknp (fieldX op))
  | _ => .unknown op

/-- Family 0xF (R119). -/
def decodeFamilyF (op : Word) : Decoded :=
  match (fieldKK op).toNat with
  | 0x07 => .instr (.ldVxDt (fieldX op))
  | 0x0A => .instr (.ldVxK (fieldX op))
  | 0x15 => .instr (.ldDtVx (fieldX op))
  | 0x18 => .instr (.ldStVx (fieldX op))
  | 0x1E => .instr (.addIVx (fieldX op))
  | 0x29 => .instr (.ldFVx (fieldX op))
  | 0x33 => .instr (.ldBVx (fieldX op))
  | 0x55 => .instr (.ldMemVx (fieldX op))
  | 0x65 => .instr (.ldVxMem (fieldX op))
  | _ => .unknown op

/-- The decode function of R122: every word is exactly one instruction or `unknown`. The last family is 0xF. -/
def decode (mode : DecodeMode) (op : Word) : Decoded :=
  match (fieldH op).toNat with
  | 0x0 => decodeFamily0 mode op
  | 0x1 => .instr (.jp (fieldNNN op))
  | 0x2 => .instr (.call (fieldNNN op))
  | 0x3 => .instr (.seImm (fieldX op) (fieldKK op))
  | 0x4 => .instr (.sneImm (fieldX op) (fieldKK op))
  | 0x5 => decodeLowNibble mode op (.seReg (fieldX op) (fieldY op))
  | 0x6 => .instr (.ldImm (fieldX op) (fieldKK op))
  | 0x7 => .instr (.addImm (fieldX op) (fieldKK op))
  | 0x8 => decodeFamily8 op
  | 0x9 => decodeLowNibble mode op (.sneReg (fieldX op) (fieldY op))
  | 0xA => .instr (.ldI (fieldNNN op))
  | 0xB => .instr (.jpV0 (fieldNNN op))
  | 0xC => .instr (.rnd (fieldX op) (fieldKK op))
  | 0xD => .instr (.drw (fieldX op) (fieldY op) (fieldN op))
  | 0xE => decodeFamilyE op
  | _ => decodeFamilyF op

/-- The instruction of two bytes in memory order; `none` where the word is unknown. -/
def decodeBytes (mode : DecodeMode) (hi lo : Byte) : Option Instr :=
  match decode mode (wordOfBytes hi lo) with
  | .instr i => some i
  | .unknown _ => none

/-- The instruction read from the table's numbering of an instruction's bits: `w` with every bit from `nbits` up 0, laid
out as the hardware stores it (bits 15 to 8 at the lower address, R84) and given to the decoder, under the default
`DECODE_MODE`, whose values opcode_table.json holds (30_encoding.md). -/
def decodeTableWord (nbits w : Nat) : Option Instr :=
  decodeBytes Config.default.decodeMode (BitVec.ofNat 8 (w % 2 ^ nbits / 256)) (BitVec.ofNat 8 (w % 2 ^ nbits))

/-! ### Encode, from the formats of R112 -/

/-- Formats XYS and XYN: four nibbles. -/
def wordXYN (h x y n : BitVec 4) : Word := h ++ x ++ y ++ n

/-- Formats XKK and XS: a nibble, a register and a byte. -/
def wordXKK (h x : BitVec 4) (kk : Imm8) : Word := h ++ x ++ kk

/-- Format NNN: a nibble and a 12-bit address. -/
def wordNNN (h : BitVec 4) (nnn : Imm12) : Word := h ++ nnn

/-- The word of an instruction (R112, R117 to R119). -/
def encode : Instr → Word
  | .cls => 0x00E0
  | .ret => 0x00EE
  | .jp nnn => wordNNN 0x1 nnn
  | .call nnn => wordNNN 0x2 nnn
  | .seImm x kk => wordXKK 0x3 x kk
  | .sneImm x kk => wordXKK 0x4 x kk
  | .seReg x y => wordXYN 0x5 x y 0x0
  | .ldImm x kk => wordXKK 0x6 x kk
  | .addImm x kk => wordXKK 0x7 x kk
  | .ldReg x y => wordXYN 0x8 x y 0x0
  | .orReg x y => wordXYN 0x8 x y 0x1
  | .andReg x y => wordXYN 0x8 x y 0x2
  | .xorReg x y => wordXYN 0x8 x y 0x3
  | .addReg x y => wordXYN 0x8 x y 0x4
  | .sub x y => wordXYN 0x8 x y 0x5
  | .shr x y => wordXYN 0x8 x y 0x6
  | .subn x y => wordXYN 0x8 x y 0x7
  | .shl x y => wordXYN 0x8 x y 0xE
  | .sneReg x y => wordXYN 0x9 x y 0x0
  | .ldI nnn => wordNNN 0xA nnn
  | .jpV0 nnn => wordNNN 0xB nnn
  | .rnd x kk => wordXKK 0xC x kk
  | .drw x y n => wordXYN 0xD x y n
  | .skp x => wordXKK 0xE x 0x9E
  | .sknp x => wordXKK 0xE x 0xA1
  | .ldVxDt x => wordXKK 0xF x 0x07
  | .ldVxK x => wordXKK 0xF x 0x0A
  | .ldDtVx x => wordXKK 0xF x 0x15
  | .ldStVx x => wordXKK 0xF x 0x18
  | .addIVx x => wordXKK 0xF x 0x1E
  | .ldFVx x => wordXKK 0xF x 0x29
  | .ldBVx x => wordXKK 0xF x 0x33
  | .ldMemVx x => wordXKK 0xF x 0x55
  | .ldVxMem x => wordXKK 0xF x 0x65

/-- The two bytes of a word as the hardware stores them, the one at the lower address first (R84). -/
def bytesOfWord (op : Word) : Byte × Byte := (op.extractLsb' 8 8, op.extractLsb' 0 8)

/-! ### The opcode table as match and mask (opcode_table.json) -/

/-- One row of the table: the fixed bits of a variant and where they stand. -/
structure OpcodeRow where
  variant : Variant
  pattern : Word
  mask    : Word
  deriving DecidableEq, Repr

/-- A word matches a row when its fixed bits are the row's. -/
def OpcodeRow.matchesWord (r : OpcodeRow) (op : Word) : Bool := op &&& r.mask == r.pattern

/-- Rows of families 0x0 to 0x7; the four masks that are narrower in FAMILY mode depend on it (30_encoding.md, R116,
R120). -/
def opcodeRows0to7 (mode : DecodeMode) : List OpcodeRow :=
  let exact : Word := match mode with | .strict => 0xFFFF | .family => 0xF0FF
  let low : Word := match mode with | .strict => 0xF00F | .family => 0xF000
  [ ⟨.cls, 0x00E0, exact⟩, ⟨.ret, 0x00EE, exact⟩, ⟨.jp, 0x1000, 0xF000⟩, ⟨.call, 0x2000, 0xF000⟩,
    ⟨.seImm, 0x3000, 0xF000⟩, ⟨.sneImm, 0x4000, 0xF000⟩, ⟨.seReg, 0x5000, low⟩, ⟨.ldImm, 0x6000, 0xF000⟩,
    ⟨.addImm, 0x7000, 0xF000⟩ ]

/-- Rows of family 0x8. -/
def opcodeRows8 : List OpcodeRow :=
  [ ⟨.ldReg, 0x8000, 0xF00F⟩, ⟨.orReg, 0x8001, 0xF00F⟩, ⟨.andReg, 0x8002, 0xF00F⟩, ⟨.xorReg, 0x8003, 0xF00F⟩,
    ⟨.addReg, 0x8004, 0xF00F⟩, ⟨.sub, 0x8005, 0xF00F⟩, ⟨.shr, 0x8006, 0xF00F⟩, ⟨.subn, 0x8007, 0xF00F⟩,
    ⟨.shl, 0x800E, 0xF00F⟩ ]

/-- Rows of families 0x9 to 0xE. -/
def opcodeRows9toE (mode : DecodeMode) : List OpcodeRow :=
  let low : Word := match mode with | .strict => 0xF00F | .family => 0xF000
  [ ⟨.sneReg, 0x9000, low⟩, ⟨.ldI, 0xA000, 0xF000⟩, ⟨.jpV0, 0xB000, 0xF000⟩, ⟨.rnd, 0xC000, 0xF000⟩,
    ⟨.drw, 0xD000, 0xF000⟩, ⟨.skp, 0xE09E, 0xF0FF⟩, ⟨.sknp, 0xE0A1, 0xF0FF⟩ ]

/-- Rows of family 0xF. -/
def opcodeRowsF : List OpcodeRow :=
  [ ⟨.ldVxDt, 0xF007, 0xF0FF⟩, ⟨.ldVxK, 0xF00A, 0xF0FF⟩, ⟨.ldDtVx, 0xF015, 0xF0FF⟩, ⟨.ldStVx, 0xF018, 0xF0FF⟩,
    ⟨.addIVx, 0xF01E, 0xF0FF⟩, ⟨.ldFVx, 0xF029, 0xF0FF⟩, ⟨.ldBVx, 0xF033, 0xF0FF⟩, ⟨.ldMemVx, 0xF055, 0xF0FF⟩,
    ⟨.ldVxMem, 0xF065, 0xF0FF⟩ ]

/-- The 34 rows under a decode mode. -/
def opcodeTable (mode : DecodeMode) : List OpcodeRow :=
  opcodeRows0to7 mode ++ opcodeRows8 ++ opcodeRows9toE mode ++ opcodeRowsF

/-- The variants of the rows a word matches. -/
def tableVariants (mode : DecodeMode) (op : Word) : List Variant :=
  ((opcodeTable mode).filter (·.matchesWord op)).map (·.variant)

end Sys2Proof
end

