-- ==== Sys2Proof/Machine/Memory.lean ====
section
/-! DEFINITION. Memory as plain data: the bytes that differ from their reset contents, in rising order of address
(10_state.md R50, 20_memory.md R80; log entry 7), with the font that reset loads (70_reset_and_hazards.md R371). -/

namespace Sys2Proof.Machine

open Sys2Proof

/-- The number of bytes of memory: addresses 0x000 to 0xFFF (R80). -/
def memorySize : Nat := 4096

/-- The font of R371, glyphs 0 to 7, 5 bytes each. -/
def glyphs0to7 : List (List Byte) :=
  [ [0xF0, 0x90, 0x90, 0x90, 0xF0], [0x20, 0x60, 0x20, 0x20, 0x70], [0xF0, 0x10, 0xF0, 0x80, 0xF0],
    [0xF0, 0x10, 0xF0, 0x10, 0xF0], [0x90, 0x90, 0xF0, 0x10, 0x10], [0xF0, 0x80, 0xF0, 0x10, 0xF0],
    [0xF0, 0x80, 0xF0, 0x90, 0xF0], [0xF0, 0x10, 0x20, 0x40, 0x40] ]

/-- The font of R371, glyphs 8 to F. -/
def glyphs8toF : List (List Byte) :=
  [ [0xF0, 0x90, 0xF0, 0x90, 0xF0], [0xF0, 0x90, 0xF0, 0x10, 0xF0], [0xF0, 0x90, 0xF0, 0x90, 0x90],
    [0xE0, 0x90, 0xE0, 0x90, 0xE0], [0xF0, 0x80, 0x80, 0x80, 0xF0], [0xE0, 0x90, 0x90, 0x90, 0xE0],
    [0xF0, 0x80, 0xF0, 0x80, 0xF0], [0xF0, 0x80, 0xF0, 0x80, 0x80] ]

/-- `GLYPH[d][j]`: byte `j` of the glyph of digit `d` (R371). -/
def glyphByte (d j : Nat) : Byte := ((glyphs0to7 ++ glyphs8toF).getD d []).getD j 0

/-- The reset contents of an address: the font from `FONT_BASE`, zero elsewhere (R58, R370, R371). This is what an address
that memory does not list reads as. -/
def resetByte (fontBase a : Nat) : Byte :=
  if fontBase ≤ a ∧ a < fontBase + 80 then glyphByte ((a - fontBase) / 5) ((a - fontBase) % 5) else 0

/-- The bytes that differ from their reset contents, addresses strictly rising. -/
abbrev Memory := List Host.Cell

/-- `MemRead(a, 1)` (00_scope.md R18). Every use stands behind a range check, so `a` is at most 4095 there (log entry 8). -/
def Memory.read (fontBase : Nat) : Memory → Nat → Byte
  | [], a => resetByte fontBase a
  | (k, b) :: m, a => if a = k then b else Memory.read fontBase m a

/-- List the byte `b` at `a`, keeping the order. -/
def Memory.insert (a : Nat) (b : Byte) : Memory → Memory
  | [] => [(a, b)]
  | (k, c) :: m =>
    if a < k then (a, b) :: (k, c) :: m
    else if a = k then (a, b) :: m
    else (k, c) :: Memory.insert a b m

/-- Take the entry of `a` out. -/
def Memory.erase (a : Nat) : Memory → Memory
  | [] => []
  | (k, c) :: m => if a = k then Memory.erase a m else (k, c) :: Memory.erase a m

/-- `MemWrite(a, 1, b)` (R18): a byte equal to the reset contents is not listed. Every use stands behind a range check; there
is no address above 4095 to write (log entry 8). -/
def Memory.write (fontBase : Nat) (m : Memory) (a : Nat) (b : Byte) : Memory :=
  if a < memorySize then
    if b = resetByte fontBase a then Memory.erase a m else Memory.insert a b m
  else m

/-- The canonical form: addresses strictly rising and below 4096, no entry equal to the reset contents. -/
def Memory.wf (fontBase : Nat) : Memory → Bool
  | [] => true
  | (k, b) :: m =>
    decide (k < memorySize) && decide (b ≠ resetByte fontBase k) && m.all (fun c => decide (k < c.1)) &&
      Memory.wf fontBase m

end Sys2Proof.Machine
end

