-- ==== Sys2Proof/Machine/State.lean ====
section
/-! DEFINITION. The state of the core (10_state.md), as plain data, its value after reset (R58), and the reasons a step can
stop. -/

namespace Sys2Proof.Machine

open Sys2Proof

/-- `RUN_STATE` (R54). -/
inductive RunState where
  | running
  | halted
  deriving DecidableEq, Repr

/-- `FAULT_KIND` (R55). -/
inductive FaultKind where
  | none
  | stackOverflow
  | stackUnderflow
  | address
  deriving DecidableEq, Repr

/-- The output `STATUS` of a CYCLE (R63). -/
inductive Status where
  | ok
  | waiting
  | fault
  | halted
  deriving DecidableEq, Repr

/-- The class of a DIAG record (40_cycle.md R155). -/
inductive DiagClass where
  | exec
  | wait
  | unknown
  | fault
  deriving DecidableEq, Repr

/-- A DIAG record (R155): `opcode` and `variant` are `none` for the spec's NONE; `fault` holds fault_kind and fault_addr and
is there for class FAULT only. -/
structure Diag where
  cls     : DiagClass
  pc      : Word
  opcode  : Option Word
  variant : Option Variant
  fault   : Option (FaultKind × Nat)
  deriving DecidableEq, Repr

/-- The outputs of one CYCLE: STATUS (R63), BEEP (R64), DIAG (R65). -/
structure CycleOut where
  status : Status
  beep   : Bool
  diag   : Option Diag
  deriving DecidableEq, Repr

/-- `FB`: 32 rows of 64 pixels, lit or unlit (R48). -/
abbrev Framebuffer := Vector (Vector Bool 64) 32

/-- The state: first what the spec gives the core, then four fields of the model's own. -/
structure State where
  /-- `V[0]` to `V[15]` (R30); VF is `V[15]` (R32). -/
  v         : Vector Byte 16
  /-- `I` (R39). -/
  i         : Word
  /-- `PC` (R36). -/
  pc        : Word
  /-- `SP`, 0 to 16: the number of stack entries in use (R42). -/
  sp        : Fin 17
  /-- `STACK[0]` to `STACK[15]` (R41). -/
  stack     : Vector Word 16
  /-- `DT` (R45). -/
  dt        : Byte
  /-- `ST` (R45). -/
  st        : Byte
  /-- `FB` (R48). -/
  fb        : Framebuffer
  /-- `MEM` (R50). -/
  mem       : Memory
  /-- `WAIT` (R51). -/
  wait      : Bool
  /-- `KPREV[0]` to `KPREV[15]` (R52), packed as Keypad is. -/
  kprev     : Keypad
  /-- `RUN_STATE` (R54). -/
  runState  : RunState
  /-- `FAULT_KIND` (R55). -/
  faultKind : FaultKind
  /-- `FAULT_PC` (R55). -/
  faultPc   : Word
  /-- `FAULT_ADDR` (R55), below 2^17 (Safety.lean). -/
  faultAddr : Nat
  /-- The model's own: the configuration parameters (00_scope.md R11, log entry 1). -/
  cfg       : Config
  /-- The model's own: the inputs supplied for the coming CYCLEs, oldest first (log entry 2). -/
  inputs    : List CycleInput
  /-- The model's own: the number of this CYCLE, which selects its free input where none is supplied (log entry 2). -/
  cycleNo   : Nat
  /-- The model's own: the outputs of the last CYCLE, none before the first (log entry 3). -/
  out       : Option CycleOut
  deriving DecidableEq, Repr

/-- No step of this core stops: a fatal fault has a described entry, after which the halted core still has a step
(60_exceptions.md R335, R337), and every word has a meaning (30_encoding.md R124). So there is no reason (log entry 4). -/
inductive Fault where
  deriving DecidableEq, Repr

/-- Why the model gives something no meaning. No step raises any of them. -/
inductive Refusal where
  /-- Raised by exec for an instruction that has no meaning yet: safe. No arm of exec raises it now. -/
  | notModelled (mnemonic : String)
  /-- Raised by the session (Session.lean) for a LOAD that is not after RESET and before the first CYCLE, or a second
  LOAD: "A model gives such a launch no meaning" (10_state.md R68). Safe. -/
  | loadOutsideBoot
  /-- Raised by the session for a CYCLE after a failed LOAD (60_exceptions.md R334, 93_implementation_defined.md U16). Safe. -/
  | cycleAfterFailedLoad
  deriving DecidableEq, Repr

/-- The state after RESET for a configuration: every element of R58 (R370). The memory lists nothing, so it reads as its
reset contents. -/
def State.resetWith (c : Config) : State where
  v         := Vector.replicate 16 0x00
  i         := 0x0000
  pc        := 0x200
  sp        := 0
  stack     := Vector.replicate 16 0x0000
  dt        := 0
  st        := 0
  fb        := Vector.replicate 32 (Vector.replicate 64 false)
  mem       := []
  wait      := false
  kprev     := 0
  runState  := .running
  faultKind := .none
  faultPc   := 0
  faultAddr := 0
  cfg       := c
  inputs    := []
  cycleNo   := 0
  out       := none

/-- The machine right after reset, at the parameters' defaults (R58, R11). -/
def State.reset : State := State.resetWith Config.default

end Sys2Proof.Machine
end

