-- ==== Sys2Proof/Machine/Ops.lean ====
section
/-! DEFINITION. The named operations over registers, memory, the stack and the program counter, and the entry of a fault
(60_exceptions.md R335). The meanings are written over these. -/

namespace Sys2Proof.Machine

open Sys2Proof

/-- What a meaning answers. -/
abbrev Result := Host.Outcome State Fault Refusal

/-! ### Registers -/

/-- VF, the flag register: `V[15]` (10_state.md R32). -/
def regF : Reg := 0xF

/-- `V[x]` (R30). -/
def State.readV (s : State) (x : Reg) : Byte := s.v[x.toNat]'(x.isLt)

/-- `V[x] <- b` (R30, R31). -/
def State.writeV (s : State) (x : Reg) (b : Byte) : State := { s with v := s.v.set x.toNat b x.isLt }

/-- `V[x] <- result` and then `VF <- flag`: the later write stands (42_alu.md R216, 00_scope.md R20). -/
def State.writeVFlag (s : State) (x : Reg) (result flag : Byte) : State := (s.writeV x result).writeV regF flag

/-- `I <- a` (10_state.md R39). -/
def State.setI (s : State) (a : Word) : State := { s with i := a }

/-- `DT <- b` (R45). -/
def State.setDt (s : State) (b : Byte) : State := { s with dt := b }

/-- `ST <- b` (R45). -/
def State.setSt (s : State) (b : Byte) : State := { s with st := b }

/-- `FB <- f` (R48). -/
def State.setFb (s : State) (f : Framebuffer) : State := { s with fb := f }

/-! ### The program counter (40_cycle.md R146); a Word wraps modulo 65536 (10_state.md R37) -/

/-- `PC <- a`. -/
def State.setPc (s : State) (a : Word) : State := { s with pc := a }

/-- "advance by 2". -/
def State.advance (s : State) : State := s.setPc (s.pc + 2)

/-- A skip: advance by 4 when the condition holds and by 2 otherwise (41_control_flow.md R189). -/
def State.skipIf (s : State) (c : Bool) : State := s.setPc (s.pc + if c then 4 else 2)

/-! ### The inputs of a cycle -/

/-- KEY, TICK and RND of this CYCLE: the oldest input supplied, or a free one where none is (10_state.md R60 to R62, log
entry 2). -/
def State.input (s : State) : CycleInput :=
  match s.inputs with
  | inp :: _ => inp
  | [] => Config.freeInput s.cycleNo

/-- `KEY[k]`. -/
def keyPressed (key : Keypad) (k : Nat) : Bool := key.getLsbD k

/-! ### Memory -/

/-- `MemRead(a, 1)` (00_scope.md R18). -/
def State.readByte (s : State) (a : Nat) : Byte := Memory.read s.cfg.fontBase s.mem a

/-- `MemWrite(a, 1, b)` (R18). -/
def State.writeByte (s : State) (a : Nat) (b : Byte) : State :=
  { s with mem := Memory.write s.cfg.fontBase s.mem a b }

/-- Single bytes at ascending addresses from `a` (20_memory.md R85). -/
def State.writeBytes (s : State) (a : Nat) : List Byte → State
  | [] => s
  | b :: bs => (s.writeByte a b).writeBytes (a + 1) bs

/-- `V[0]` to `V[n-1]`, ascending. -/
def State.firstRegs (s : State) (n : Nat) : List Byte := s.v.toList.take n

/-- `V[i] <- MemRead(a + i, 1)` for `i` in `0 .. n-1`, ascending (43_index_memory.md R256). -/
def State.loadRegs (s : State) (a : Nat) : Nat → State
  | 0 => s
  | n + 1 => (s.loadRegs a n).writeV (BitVec.ofNat 4 n) (s.readByte (a + n))

/-! ### Faults -/

/-- The exceptions of 60_exceptions.md R331 and R332, which `raise` names (00_scope.md R19). -/
inductive Exception where
  | stackOverflow
  | stackUnderflow
  | address (addr : Nat)
  deriving DecidableEq, Repr

/-- The FAULT_KIND an exception is recorded as (R330). -/
def Exception.kind : Exception → FaultKind
  | .stackOverflow => .stackOverflow
  | .stackUnderflow => .stackUnderflow
  | .address _ => .address

/-- The FAULT_ADDR an exception is recorded with: 0 for the other kinds (R335). -/
def Exception.addr : Exception → Nat
  | .stackOverflow => 0
  | .stackUnderflow => 0
  | .address a => a

/-- The numbers of the fault kinds (R330). -/
def FaultKind.code : FaultKind → Nat
  | .none => 0
  | .stackOverflow => 1
  | .stackUnderflow => 2
  | .address => 3

/-- Fault entry (R335): `s` is the state before the cycle, and PC holds the address of the faulting instruction (R146), so
every effect of the cycle is discarded and four registers are written. -/
def State.takeFault (s : State) (e : Exception) : State :=
  { s with runState := .halted, faultKind := e.kind, faultPc := s.pc, faultAddr := e.addr }

/-- `raise`: the meaning ends in the fault's entry, a next state. Every check precedes every write (R335), so `s` is the
state the meaning was given. -/
def raise (e : Exception) (s : State) : Result := .next (s.takeFault e)

/-- `RESET` (70_reset_and_hazards.md R370), the only way out of HALTED (60_exceptions.md R340): there is no return from a
fault. The parameters are fixed and the inputs are not state, so they stay. -/
def State.hostReset (s : State) : State :=
  { State.resetWith s.cfg with inputs := s.inputs, cycleNo := s.cycleNo }

/-- `CheckRange(a, n)`: the exception for the first of the `n` bytes from `a` that is above 4095, if there is one
(00_scope.md R18). The sum does not wrap (20_memory.md R87). -/
def checkRange (a n : Nat) : Option Exception :=
  if n = 0 ∨ a + n ≤ memorySize then none else some (.address (max a memorySize))

/-! ### The call stack (10_state.md R42, R43) -/

/-- A push writes `STACK[SP]` and then increments SP; `none` is the stack overflow. -/
def State.push (s : State) (a : Word) : Option State :=
  if h : s.sp.val < 16 then
    some { s with stack := s.stack.set s.sp.val a h, sp := ⟨s.sp.val + 1, Nat.succ_lt_succ h⟩ }
  else none

/-- A pop decrements SP and then reads `STACK[SP]`, which it does not clear; `none` is the stack underflow. -/
def State.pop (s : State) : Option (Word × State) :=
  if h : s.sp.val = 0 then none
  else
    have lt : s.sp.val - 1 < 16 := by omega
    some (s.stack[s.sp.val - 1], { s with sp := ⟨s.sp.val - 1, Nat.lt_succ_of_lt lt⟩ })

end Sys2Proof.Machine
end

