-- ==== Sys2Proof/Machine/Cycle.lean ====
section
/-! DEFINITION. The phases of a cycle around execute (40_cycle.md): fetch, the timer tick, the outputs, and how a cycle ends.
Step.lean puts them in order. -/

namespace Sys2Proof.Machine

open Sys2Proof

/-! ### Fetch -/

/-- The fetch (R143): the word at PC, big-endian, or the addressing fault of the first byte out of range. -/
def State.fetch (s : State) : Except Exception Word :=
  match checkRange s.pc.toNat 2 with
  | some e => .error e
  | none => .ok (wordOfBytes (s.readByte s.pc.toNat) (s.readByte (s.pc.toNat + 1)))

/-! ### Timer tick -/

/-- Is the tick of this cycle enabled (R150)? -/
def State.tickEnabled (s : State) : Bool :=
  match s.cfg.tickSource with
  | .everyCycle => true
  | .external => s.input.tick

/-- One decrement: a timer of 0 stays 0 (R150). -/
def decrement (b : Byte) : Byte := if b = 0 then 0 else b - 1

/-- The post-execute tick (R150, R151). -/
def State.tick (s : State) : State :=
  if s.tickEnabled then { s with dt := decrement s.dt, st := decrement s.st } else s

/-- BEEP: the tick moves ST from 1 to 0 (R151). -/
def State.beeps (s : State) : Bool := s.tickEnabled && s.st == 1

/-! ### How a cycle ends -/

/-- What execute returned (R147), when it did not raise. -/
inductive ExecKind where
  | done
  | wait
  | unknown
  deriving DecidableEq, Repr

/-- STATUS of a cycle that did not fault (R154). -/
def ExecKind.status : ExecKind → Status
  | .done => .ok
  | .wait => .waiting
  | .unknown => .ok

/-- The class of its DIAG record (R155). -/
def ExecKind.diagClass : ExecKind → DiagClass
  | .done => .exec
  | .wait => .wait
  | .unknown => .unknown

/-- The kind of an execution that left `t`: Fx0A did not complete exactly when it left WAIT set (R304), and a word is
unknown when decode says so (R148). -/
def kindOf (d : Decoded) (t : State) : ExecKind :=
  match d.variant with
  | .unknown => .unknown
  | .ldVxK => if t.wait then .wait else .done
  | _ => .done

/-- The end of every CYCLE: its outputs stand, its input is used up, and the next CYCLE has the next number (log entries 2
and 3). Nothing of the spec's state changes. -/
def State.emit (s : State) (o : CycleOut) : State :=
  { s with out := some o, inputs := s.inputs.tail, cycleNo := s.cycleNo + 1 }

/-- A CYCLE on a halted core (R142): STATUS HALTED, BEEP 0, no DIAG record, no change. -/
def State.haltedCycle (s : State) : State := s.emit ⟨.halted, false, none⟩

/-- The end of a faulting cycle (60_exceptions.md R335): `t` has the fault's entry, there is no tick, and the DIAG record is
of class FAULT. -/
def State.faultCycle (t : State) (opcode : Option Word) (variant : Option Variant) : State :=
  t.emit ⟨.fault, false, some ⟨.fault, t.faultPc, opcode, variant, some (t.faultKind, t.faultAddr)⟩⟩

/-- The end of a cycle whose execute completed, waited or met an unknown word (R141, R149): the tick, then the outputs. -/
def State.execCycle (t : State) (pc0 op : Word) (d : Decoded) : State :=
  t.tick.emit ⟨(kindOf d t).status, t.beeps, some ⟨(kindOf d t).diagClass, pc0, some op, some d.variant, none⟩⟩

/-- The end of a cycle after execute left `t`: a fault if the core is now halted, the tick otherwise. -/
def State.endCycle (t : State) (pc0 op : Word) (d : Decoded) : State :=
  match t.runState with
  | .halted => t.faultCycle (some op) (some d.variant)
  | .running => t.execCycle pc0 op d

end Sys2Proof.Machine
end

