-- ==== Sys2Proof/Machine/Flags.lean ====
section
/-! DEFINITION. The flag computations (10_state.md R34): each gives the condition, and `flagByte` the value VF takes. -/

namespace Sys2Proof.Machine

open Sys2Proof

/-- A flag as VF holds it: 1 or 0 (R34). -/
def flagByte (c : Bool) : Byte := if c then 1 else 0

/-- 8xy4: the 8-bit sum carried out (42_alu.md R217). -/
def carryOut (a b : Byte) : Bool := decide (a.toNat + b.toNat > 255)

/-- 8xy5 and 8xy7: no borrow occurs in `a - b` (R218, R221). -/
def noBorrow (a b : Byte) : Bool := decide (a.toNat ≥ b.toNat)

/-- 8xy6: the bit shifted out to the right, bit 0 (R220). -/
def shiftedOutRight (src : Byte) : Bool := src.getLsbD 0

/-- 8xyE: the bit shifted out to the left, bit 7 (R222). -/
def shiftedOutLeft (src : Byte) : Bool := src.getLsbD 7

end Sys2Proof.Machine
end

