-- ==== Sys2Proof/Machine/Operands.lean ====
section
/-! DEFINITION. The operand forms: immediates, the shift source, the key index, the glyph address, the base of a transfer and
the decimal digits. -/

namespace Sys2Proof.Machine

open Sys2Proof

/-- `zext_16(nnn)` (30_encoding.md R113). -/
def zext16 (nnn : Imm12) : Word := nnn.setWidth 16

/-- `zext_16` of a register, where it enters PC or I (R113, 41_control_flow.md R188, 43_index_memory.md R252). -/
def zextReg (b : Byte) : Word := b.setWidth 16

/-- The operand of 8xy6 and 8xyE (42_alu.md R219). -/
def State.shiftOperand (s : State) (x y : Reg) : Byte :=
  match s.cfg.shiftSource with
  | .x => s.readV x
  | .y => s.readV y

/-- The key a skip tests, `V[x] & 0x0F` (45_keypad_timers.md R300). -/
def State.keyIndex (s : State) (x : Reg) : Nat := (s.readV x &&& 0x0F).toNat

/-- The glyph address of a digit register, `FONT_BASE + 5 * (V[x] & 0x0F)` (43_index_memory.md R253). -/
def State.glyphAddress (s : State) (x : Reg) : Word :=
  BitVec.ofNat 16 (s.cfg.fontBase + 5 * (s.readV x &&& 0x0F).toNat)

/-- The effective address of byte `k` of a transfer, `I + k`, without wrap (R250). -/
def State.effective (s : State) (k : Nat) : Nat := s.i.toNat + k

/-- The count of registers that Fx55 and Fx65 move, `x + 1` (30_encoding.md R114). -/
def regCount (x : Reg) : Nat := x.toNat + 1

/-- The three decimal digits of a register, hundreds first (43_index_memory.md R254). -/
def decimalDigits (b : Byte) : List Byte :=
  [BitVec.ofNat 8 (b.toNat / 100), BitVec.ofNat 8 (b.toNat / 10 % 10), BitVec.ofNat 8 (b.toNat % 10)]

/-- The least index in a set of keys, `min P` (45_keypad_timers.md R304). -/
def lowestKey (p : Keypad) : Option Nat := (List.range 16).find? (keyPressed p)

/-- The keys that end an Fx0A wait in this cycle, the set `P` of R304: every pressed key in LEVEL mode; in EDGE mode the
key-down transitions since the last sample, none in the first cycle of the wait, which only samples. -/
def State.wakingKeys (s : State) : Keypad :=
  match s.cfg.keyWaitTrigger with
  | .level => s.input.key
  | .edge => if s.wait then s.input.key &&& ~~~s.kprev else 0

end Sys2Proof.Machine
end

