-- ==== Sys2Proof/Machine/Alu.lean ====
section
/-! DEFINITION. Register loads and arithmetic (42_alu.md). Operands are read before anything is written (R216). -/

namespace Sys2Proof.Machine

open Sys2Proof

/-- 6xkk `LD Vx, kk` (R210). -/
def execLdImm (x : Reg) (kk : Imm8) (s : State) : Result := .next (s.writeV x kk).advance

/-- 7xkk `ADD Vx, kk` (R211): no flag effect. -/
def execAddImm (x : Reg) (kk : Imm8) (s : State) : Result := .next (s.writeV x (s.readV x + kk)).advance

/-- 8xy0 `LD Vx, Vy` (R212). -/
def execLdReg (x y : Reg) (s : State) : Result := .next (s.writeV x (s.readV y)).advance

/-- 8xy1 `OR Vx, Vy` (R213). -/
def execOrReg (x y : Reg) (s : State) : Result := .next (s.writeV x (s.readV x ||| s.readV y)).advance

/-- 8xy2 `AND Vx, Vy` (R214). -/
def execAndReg (x y : Reg) (s : State) : Result := .next (s.writeV x (s.readV x &&& s.readV y)).advance

/-- 8xy3 `XOR Vx, Vy` (R215). -/
def execXorReg (x y : Reg) (s : State) : Result := .next (s.writeV x (s.readV x ^^^ s.readV y)).advance

/-- 8xy4 `ADD Vx, Vy` (R217): VF is 1 if a carry occurred. -/
def execAddReg (x y : Reg) (s : State) : Result :=
  .next (s.writeVFlag x (s.readV x + s.readV y) (flagByte (carryOut (s.readV x) (s.readV y)))).advance

/-- 8xy5 `SUB Vx, Vy` (R218): VF is 1 if no borrow occurred. -/
def execSub (x y : Reg) (s : State) : Result :=
  .next (s.writeVFlag x (s.readV x - s.readV y) (flagByte (noBorrow (s.readV x) (s.readV y)))).advance

/-- 8xy6 `SHR Vx, Vy` (R219, R220). -/
def execShr (x y : Reg) (s : State) : Result :=
  .next (s.writeVFlag x (s.shiftOperand x y >>> 1) (flagByte (shiftedOutRight (s.shiftOperand x y)))).advance

/-- 8xy7 `SUBN Vx, Vy` (R221). -/
def execSubn (x y : Reg) (s : State) : Result :=
  .next (s.writeVFlag x (s.readV y - s.readV x) (flagByte (noBorrow (s.readV y) (s.readV x)))).advance

/-- 8xyE `SHL Vx, Vy` (R219, R222). -/
def execShl (x y : Reg) (s : State) : Result :=
  .next (s.writeVFlag x (s.shiftOperand x y <<< 1) (flagByte (shiftedOutLeft (s.shiftOperand x y)))).advance

/-- Cxkk `RND Vx, kk` (R223): the random byte is the cycle's input RND. -/
def execRnd (x : Reg) (kk : Imm8) (s : State) : Result := .next (s.writeV x (s.input.rnd &&& kk)).advance

end Sys2Proof.Machine
end

