-- ==== Sys2Proof/Machine/ControlFlow.lean ====
section
/-! DEFINITION. Control flow (41_control_flow.md), and the unknown opcode (40_cycle.md R148). -/

namespace Sys2Proof.Machine

open Sys2Proof

/-- 00EE `RET` (R181): the popped value is the address of the CALL, so PC is it plus 2. -/
def execRet (s : State) : Result :=
  match s.pop with
  | none => raise .stackUnderflow s
  | some (a, t) => .next (t.setPc (a + 2))

/-- 1nnn `JP nnn` (R182). -/
def execJp (nnn : Imm12) (s : State) : Result := .next (s.setPc (zext16 nnn))

/-- 2nnn `CALL nnn` (R183): the address of the CALL itself is pushed. -/
def execCall (nnn : Imm12) (s : State) : Result :=
  match s.push s.pc with
  | none => raise .stackOverflow s
  | some t => .next (t.setPc (zext16 nnn))

/-- 3xkk `SE Vx, kk` (R184). -/
def execSeImm (x : Reg) (kk : Imm8) (s : State) : Result := .next (s.skipIf (s.readV x == kk))

/-- 4xkk `SNE Vx, kk` (R185). -/
def execSneImm (x : Reg) (kk : Imm8) (s : State) : Result := .next (s.skipIf (s.readV x != kk))

/-- 5xy0 `SE Vx, Vy` (R186). -/
def execSeReg (x y : Reg) (s : State) : Result := .next (s.skipIf (s.readV x == s.readV y))

/-- 9xy0 `SNE Vx, Vy` (R187). -/
def execSneReg (x y : Reg) (s : State) : Result := .next (s.skipIf (s.readV x != s.readV y))

/-- Bnnn `JP V0, nnn` (R188): the sum is not masked. -/
def execJpV0 (nnn : Imm12) (s : State) : Result := .next (s.setPc (zext16 nnn + zextReg (s.readV 0)))

/-- An unknown word (40_cycle.md R148): PC advances by 2 and nothing else is written. -/
def execUnknown (_op : Word) (s : State) : Result := .next s.advance

end Sys2Proof.Machine
end

