-- ==== Sys2Proof/Machine/Display.lean ====
section
/-! DEFINITION. Display (44_display.md): clear screen and sprite draw. -/

namespace Sys2Proof.Machine

open Sys2Proof

/-- Every pixel unlit. -/
def clearFramebuffer : Framebuffer := Vector.replicate 32 (Vector.replicate 64 false)

/-- `FB[r][c]` (10_state.md R48). -/
def pixel (f : Framebuffer) (r : Fin 32) (c : Fin 64) : Bool := f[r][c]

/-- The framebuffer as the rendering collaborator reads it: the element at linear index `r * 64 + c` is `FB[r][c]`
(R48, R66). -/
def linearPixels (f : Framebuffer) : List Bool := f.toList.flatMap (·.toList)

/-- `FB[r][c] <- FB[r][c] ^ 1`. -/
def flipPixel (f : Framebuffer) (r : Fin 32) (c : Fin 64) : Framebuffer :=
  f.set r (f[r].set c (!f[r][c]))

/-- The framebuffer and the collision so far, in the course of a draw. -/
structure Draw where
  fb  : Framebuffer
  hit : Bool
  deriving DecidableEq, Repr

/-- One sprite pixel that is 1: a lit pixel is erased and counts as a collision (R282). -/
def Draw.flip (d : Draw) (r : Fin 32) (c : Fin 64) : Draw := ⟨flipPixel d.fb r c, d.hit || pixel d.fb r c⟩

/-- `px = (x0 + c) mod 64` (R281). -/
def spriteColumn (x0 : Byte) (c : Nat) : Fin 64 := Fin.ofNat 64 (x0.toNat + c)

/-- `py` of sprite row `r`, `none` where the row is clipped (R281, R282). -/
def spriteRow (vertical : DrawVertical) (y0 : Byte) (r : Nat) : Option (Fin 32) :=
  match vertical with
  | .clip => if h : y0.toNat % 32 + r < 32 then some ⟨y0.toNat % 32 + r, h⟩ else none
  | .wrap => some (Fin.ofNat 32 (y0.toNat + r))

/-- Columns `0 .. n-1` of one sprite row: column `c` is bit `7 - c` of its byte, the leftmost first (R281). -/
def drawRow (py : Fin 32) (x0 row : Byte) : Nat → Draw → Draw
  | 0, d => d
  | c + 1, d =>
    if row.getLsbD (7 - c) then (drawRow py x0 row c d).flip py (spriteColumn x0 c) else drawRow py x0 row c d

/-- Rows `0 .. n-1` of the sprite at `a`, whose bytes are read from `s` (R282). -/
def drawRows (s : State) (a : Nat) (x0 y0 : Byte) : Nat → Draw → Draw
  | 0, d => d
  | r + 1, d =>
    match spriteRow s.cfg.drawVertical y0 r with
    | some py => drawRow py x0 (s.readByte (a + r)) 8 (drawRows s a x0 y0 r d)
    | none => drawRows s a x0 y0 r d

/-- The whole sprite of Dxyn, on the framebuffer of `s`, with no collision yet. -/
def State.drawSprite (s : State) (x y : Reg) (n : Imm4) : Draw :=
  drawRows s (s.effective 0) (s.readV x) (s.readV y) n.toNat ⟨s.fb, false⟩

/-- 00E0 `CLS` (R280). -/
def execCls (s : State) : Result := .next (s.setFb clearFramebuffer).advance

/-- Dxyn `DRW Vx, Vy, n` (R282): with `n = 0` nothing is checked, read or drawn, and VF is 0. -/
def execDrw (x y : Reg) (n : Imm4) (s : State) : Result :=
  match checkRange (s.effective 0) n.toNat with
  | some e => raise e s
  | none =>
    .next ((s.setFb (s.drawSprite x y n).fb).writeV regF (flagByte (s.drawSprite x y n).hit)).advance

end Sys2Proof.Machine
end

