-- ==== Sys2Proof/Machine/IndexMemory.lean ====
section
/-! DEFINITION. The index register and memory transfers (43_index_memory.md). A transfer checks every byte before it writes
one, and does not change I (R250). -/

namespace Sys2Proof.Machine

open Sys2Proof

/-- Annn `LD I, nnn` (R251). -/
def execLdI (nnn : Imm12) (s : State) : Result := .next (s.setI (zext16 nnn)).advance

/-- Fx1E `ADD I, Vx` (R252): 16-bit wrap, no flag. -/
def execAddIVx (x : Reg) (s : State) : Result := .next (s.setI (s.i + zextReg (s.readV x))).advance

/-- Fx29 `LD F, Vx` (R253). -/
def execLdFVx (x : Reg) (s : State) : Result := .next (s.setI (s.glyphAddress x)).advance

/-- Fx33 `LD B, Vx` (R254). -/
def execLdBVx (x : Reg) (s : State) : Result :=
  match checkRange (s.effective 0) 3 with
  | some e => raise e s
  | none => .next (s.writeBytes (s.effective 0) (decimalDigits (s.readV x))).advance

/-- Fx55 `LD [I], Vx` (R255). -/
def execLdMemVx (x : Reg) (s : State) : Result :=
  match checkRange (s.effective 0) (regCount x) with
  | some e => raise e s
  | none => .next (s.writeBytes (s.effective 0) (s.firstRegs (regCount x))).advance

/-- Fx65 `LD Vx, [I]` (R256). -/
def execLdVxMem (x : Reg) (s : State) : Result :=
  match checkRange (s.effective 0) (regCount x) with
  | some e => raise e s
  | none => .next (s.loadRegs (s.effective 0) (regCount x)).advance

end Sys2Proof.Machine
end

