-- ==== Sys2Proof/Machine/KeypadTimers.lean ====
section
/-! DEFINITION. Keypad and timer instructions (45_keypad_timers.md). -/

namespace Sys2Proof.Machine

open Sys2Proof

/-- Ex9E `SKP Vx` (R301). -/
def execSkp (x : Reg) (s : State) : Result := .next (s.skipIf (keyPressed s.input.key (s.keyIndex x)))

/-- ExA1 `SKNP Vx` (R302). -/
def execSknp (x : Reg) (s : State) : Result := .next (s.skipIf (!keyPressed s.input.key (s.keyIndex x)))

/-- Fx07 `LD Vx, DT` (R303): DT as the previous cycle left it. -/
def execLdVxDt (x : Reg) (s : State) : Result := .next (s.writeV x s.dt).advance

/-- A cycle of Fx0A in which no key qualifies (R304): the keypad is sampled, WAIT is set, PC stays. KPREV is written in EDGE
mode only (10_state.md R57, log entry 9). -/
def State.keepWaiting (s : State) : State :=
  match s.cfg.keyWaitTrigger with
  | .edge => { s with kprev := s.input.key, wait := true }
  | .level => { s with wait := true }

/-- The end of an Fx0A wait: the key's index is stored and WAIT cleared (R304). -/
def State.endWait (s : State) (x : Reg) (k : Nat) : State :=
  { s.writeV x (BitVec.ofNat 8 k) with wait := false }

/-- Fx0A `LD Vx, K` (R304). -/
def execLdVxK (x : Reg) (s : State) : Result :=
  .next (match lowestKey s.wakingKeys with
    | some k => (s.endWait x k).advance
    | none => s.keepWaiting)

/-- Fx15 `LD DT, Vx` (R305). -/
def execLdDtVx (x : Reg) (s : State) : Result := .next (s.setDt (s.readV x)).advance

/-- Fx18 `LD ST, Vx` (R306). -/
def execLdStVx (x : Reg) (s : State) : Result := .next (s.setSt (s.readV x)).advance

end Sys2Proof.Machine
end

