-- ==== Sys2Proof/Machine/Step.lean ====
section
/-! DEFINITION. One CYCLE (40_cycle.md R141, R156). -/

namespace Sys2Proof.Machine

open Sys2Proof

/-- Execute what was decoded (R145). -/
def execDecoded (d : Decoded) (s : State) : Host.Outcome State Fault Refusal :=
  match d with
  | .instr i => exec i s
  | .unknown op => execUnknown op s

/-- One CYCLE with the inputs `s.input` (R141): a halted core does nothing; a fetch out of range faults; otherwise fetch,
decode, execute and tick. -/
def step (s : State) : Host.Outcome State Fault Refusal :=
  match s.runState with
  | .halted => .next s.haltedCycle
  | .running =>
    match s.fetch with
    | .error e => .next ((s.takeFault e).faultCycle none none)
    | .ok op =>
      match execDecoded (decode s.cfg.decodeMode op) s with
      | .next t => .next (t.endCycle s.pc op (decode s.cfg.decodeMode op))
      | .fault r => .fault r
      | .refused r => .refused r

/-- `s` with the instruction word `w` (bits from `nbits` up are 0) stored where the next fetch reads, PC and PC + 1,
big-endian (20_memory.md R84). It stands for the LOAD that puts a program into memory (log entry 5). -/
def State.withFetchWord (s : State) (nbits w : Nat) : State :=
  (s.writeByte s.pc.toNat (BitVec.ofNat 8 (w % 2 ^ nbits / 256))).writeByte (s.pc.toNat + 1)
    (BitVec.ofNat 8 (w % 2 ^ nbits))

end Sys2Proof.Machine
end

