-- ==== Sys2Proof/WellFormed.lean ====
section
/-! DEFINITION. The checks the types do not make. An instruction needs none: its operand fields have exactly the widths
of 30_encoding.md R111, every value of a field is legal (R113, R114), and every pair of registers is (R114), so every
term of Instr is well-formed (DESIGN CHOICE, log entry 12). A configuration and a ROM image do need one. -/

namespace Sys2Proof

/-- 00_scope.md R11: "`FONT_BASE` must satisfy `FONT_BASE + 80 <= 0x200`". -/
def Config.wellFormed (c : Config) : Bool :=
  decide (c.fontBase + 80 ≤ 0x200)

/-- The most bytes a ROM image may have: 4096 - 0x200 (R10, 70_reset_and_hazards.md R372). -/
def maxRomBytes : Nat := 3584

/-- 70_reset_and_hazards.md R372: a ROM image of more than 3584 bytes is refused with CAPACITY. -/
def romWellFormed (rom : List Byte) : Bool :=
  decide (rom.length ≤ maxRomBytes)

end Sys2Proof
end

