-- ==== Sys2Proof/Machine/Session.lean ====
section
/-! DEFINITION. The host's operations on the core, RESET, LOAD and CYCLE (10_state.md R59, R67), with the duties that have no
meaning when they are broken (R68). -/

namespace Sys2Proof.Machine

open Sys2Proof

/-- What LOAD answers (70_reset_and_hazards.md R372). -/
inductive LoadResult where
  | ok
  | capacity
  deriving DecidableEq, Repr

/-- The address a ROM image is loaded at (R82, R372). -/
def loadAddress : Nat := 0x200

/-- `LOAD(rom)` (R372): the bytes at 0x200, or CAPACITY and no change. -/
def State.load (s : State) (rom : List Byte) : LoadResult × State :=
  if romWellFormed rom then (.ok, s.writeBytes loadAddress rom) else (.capacity, s)

/-- One invocation by the host (R59). -/
inductive Operation where
  | reset
  | load (rom : List Byte)
  | cycle (inp : CycleInput)
  deriving DecidableEq, Repr

/-- Where the host is in the boot sequence RESET, one LOAD, CYCLEs (70_reset_and_hazards.md R373). -/
inductive Phase where
  | fresh
  | loaded
  | loadFailed
  | running
  deriving DecidableEq, Repr

/-- The core and the host's place in the boot sequence, which is no state of the core. -/
structure Session where
  core  : State
  phase : Phase
  deriving DecidableEq, Repr

/-- The core as created: reset equals creation (R370, 92_eei_decisions.md D27). -/
def Session.start (c : Config) : Session := ⟨State.resetWith c, .fresh⟩

/-- What an operation gives back (R67): LOAD's result, or the outputs of a CYCLE. -/
inductive Answer where
  | nothing
  | load (r : LoadResult)
  | cycle (o : Option CycleOut)
  deriving DecidableEq, Repr

/-- LOAD, only after RESET and before the first CYCLE, and once (R68, R373; D29). -/
def Session.load (z : Session) (rom : List Byte) : Host.Outcome (Session × Answer) Fault Refusal :=
  match z.phase with
  | .fresh =>
    match z.core.load rom with
    | (.ok, t) => .next (⟨t, .loaded⟩, .load .ok)
    | (.capacity, t) => .next (⟨t, .loadFailed⟩, .load .capacity)
  | .loaded => .refused .loadOutsideBoot
  | .loadFailed => .refused .loadOutsideBoot
  | .running => .refused .loadOutsideBoot

/-- CYCLE with the given inputs, the machine's step on them; not after a failed LOAD (60_exceptions.md R334). -/
def Session.cycle (z : Session) (inp : CycleInput) : Host.Outcome (Session × Answer) Fault Refusal :=
  match z.phase with
  | .loadFailed => .refused .cycleAfterFailedLoad
  | .fresh | .loaded | .running =>
    match step { z.core with inputs := [inp] } with
    | .next t => .next (⟨t, .running⟩, .cycle t.out)
    | .fault r => .fault r
    | .refused r => .refused r

/-- One operation of the host. RESET may be invoked in any state (R370). -/
def Session.operate (z : Session) : Operation → Host.Outcome (Session × Answer) Fault Refusal
  | .reset => .next (⟨z.core.hostReset, .fresh⟩, .nothing)
  | .load rom => z.load rom
  | .cycle inp => z.cycle inp

end Sys2Proof.Machine
end

