-- ==== Sys2Proof/Safety.lean ====
section
/-! DEFINITION. What a safe state and a safe run are, in the terms the claims use, and the invariants of the machine. -/

namespace Sys2Proof.Machine

open Sys2Proof

/-- The core runs: no fatal fault has been taken (10_state.md R54). -/
def State.Running (s : State) : Prop := s.runState = .running

/-- A bad end: the core is halted by a fault (70_reset_and_hazards.md R380). -/
def State.BadEnd (s : State) : Prop := s.runState = .halted

/-- `ss 0`, `ss 1`, ..., `ss n` are the states of `n` CYCLEs in a row (R380). -/
def IsRun (ss : Nat → State) (n : Nat) : Prop := ∀ k, k < n → step (ss k) = .next (ss (k + 1))

/-- What the next CYCLE decodes, if it fetches. -/
def State.nextDecoded (s : State) : Option Decoded :=
  match s.fetch with
  | .error _ => none
  | .ok op => some (decode s.cfg.decodeMode op)

/-- PC is at a jump to itself, the usual end of a program (R380, 41_control_flow.md R182). -/
def State.AtSelfJump (s : State) : Prop :=
  s.runState = .running ∧ ∃ nnn : Imm12, s.nextDecoded = some (.instr (.jp nnn)) ∧ s.pc.toNat = nnn.toNat

/-- Memory keeps its canonical form (log entry 7). -/
def State.MemoryCanonical (s : State) : Prop := Memory.wf s.cfg.fontBase s.mem = true

/-- The fault record says what RUN_STATE says (R55, R56, 60_exceptions.md R335): a running core has no fault recorded; a
halted one has a kind, and an address exactly for an addressing fault, above 4095 and below 2^17. -/
def State.FaultRecordConsistent (s : State) : Prop :=
  match s.runState with
  | .running => s.faultKind = .none ∧ s.faultPc = 0 ∧ s.faultAddr = 0
  | .halted =>
    match s.faultKind with
    | .none => False
    | .stackOverflow => s.sp.val = 16 ∧ s.faultAddr = 0
    | .stackUnderflow => s.sp.val = 0 ∧ s.faultAddr = 0
    | .address => 4096 ≤ s.faultAddr ∧ s.faultAddr < 2 ^ 17

/-- WAIT is set only while a key-wait is in progress: the next fetch finds an Fx0A (10_state.md R51). -/
def State.WaitAtKeyWait (s : State) : Prop :=
  s.wait = true → ∃ x, s.nextDecoded = some (.instr (.ldVxK x))

end Sys2Proof.Machine
end

