-- ==== Sys2Proof/Certificates/Slice0/Obligations.lean ====
section
/-! DEFINITION. The statements for the provers. Where a docstring names a decision D<n>, an inference ("derived") or general
knowledge G<n> of the spec, the statement rests on that choice of the spec's own (log entry 10) and its basis is derived. -/

namespace Sys2Proof.Machine

open Sys2Proof

/-! ### What the statements are said with -/

/-- The parts of the state a statement may name as written. -/
inductive Part where
  | i | stack | dt | st | fb | mem | keyWait | fault
  deriving DecidableEq, Repr

/-- The frame: from `s` to `t` every register but `regs`, every part but `parts`, every byte of memory unless memory is named,
and the model's own fields are unchanged. The program counter may change. -/
structure Frame (regs : List Reg) (parts : List Part) (s t : State) : Prop where
  v       : ∀ r, r ∉ regs → t.readV r = s.readV r
  i       : .i ∉ parts → t.i = s.i
  stack   : .stack ∉ parts → t.sp = s.sp ∧ t.stack = s.stack
  dt      : .dt ∉ parts → t.dt = s.dt
  st      : .st ∉ parts → t.st = s.st
  fb      : .fb ∉ parts → t.fb = s.fb
  mem     : .mem ∉ parts → ∀ a, t.readByte a = s.readByte a
  keyWait : .keyWait ∉ parts → t.wait = s.wait ∧ t.kprev = s.kprev
  fault   : .fault ∉ parts → t.runState = s.runState ∧ t.faultKind = s.faultKind ∧ t.faultPc = s.faultPc ∧
              t.faultAddr = s.faultAddr
  own     : t.cfg = s.cfg ∧ t.inputs = s.inputs ∧ t.cycleNo = s.cycleNo ∧ t.out = s.out

/-- `t` is `s` with the fault's entry taken: halted, the record written, and nothing else changed, PC included. -/
def FaultTaken (s t : State) (kind : FaultKind) (addr : Nat) : Prop :=
  t.runState = .halted ∧ t.faultKind = kind ∧ t.faultPc = s.pc ∧ t.faultAddr = addr ∧ t.pc = s.pc ∧
    Frame [] [.fault] s t

/-- Every element of the spec's state but DT and ST is the same. -/
def SameButTimers (s t : State) : Prop :=
  t.v = s.v ∧ t.i = s.i ∧ t.pc = s.pc ∧ t.sp = s.sp ∧ t.stack = s.stack ∧ t.fb = s.fb ∧ t.mem = s.mem ∧
    t.wait = s.wait ∧ t.kprev = s.kprev ∧ t.runState = s.runState ∧ t.faultKind = s.faultKind ∧
    t.faultPc = s.faultPc ∧ t.faultAddr = s.faultAddr ∧ t.cfg = s.cfg

/-- Every element of the spec's state is the same. -/
def SameCore (s t : State) : Prop := SameButTimers s t ∧ t.dt = s.dt ∧ t.st = s.st

/-- The tick of this cycle is enabled (40_cycle.md R150). -/
def TickOn (s : State) : Prop := s.cfg.tickSource = .everyCycle ∨ s.input.tick = true

/-- The high nibble, the low nibble and the low byte of a word, as numbers. -/
def hiNibble (op : Word) : Nat := op.toNat / 4096
def loNibble (op : Word) : Nat := op.toNat % 16
def loByte (op : Word) : Nat := op.toNat % 256

/-- The `x` and `y` fields of a word, from the numbers (30_encoding.md R111). -/
def numX (op : Word) : Reg := BitVec.ofNat 4 (op.toNat / 256)
def numY (op : Word) : Reg := BitVec.ofNat 4 (op.toNat / 16)

/-- The font of 70_reset_and_hazards.md R371, as 16 rows of 5 bytes. -/
def fontRows : List (List Nat) :=
  [[0xF0, 0x90, 0x90, 0x90, 0xF0], [0x20, 0x60, 0x20, 0x20, 0x70], [0xF0, 0x10, 0xF0, 0x80, 0xF0],
   [0xF0, 0x10, 0xF0, 0x10, 0xF0], [0x90, 0x90, 0xF0, 0x10, 0x10], [0xF0, 0x80, 0xF0, 0x10, 0xF0],
   [0xF0, 0x80, 0xF0, 0x90, 0xF0], [0xF0, 0x10, 0x20, 0x40, 0x40]] ++
  [[0xF0, 0x90, 0xF0, 0x90, 0xF0], [0xF0, 0x90, 0xF0, 0x10, 0xF0], [0xF0, 0x90, 0xF0, 0x90, 0x90],
   [0xE0, 0x90, 0xE0, 0x90, 0xE0], [0xF0, 0x80, 0x80, 0x80, 0xF0], [0xE0, 0x90, 0x90, 0x90, 0xE0],
   [0xF0, 0x80, 0xF0, 0x80, 0xF0], [0xF0, 0x80, 0xF0, 0x80, 0x80]]

/-- Sprite pixel `(k, j)` of `DRW Vx, Vy, n` at `s` is 1 and lands on framebuffer cell `(r, c)` (44_display.md R281): bit
`7 - j` of the byte at I + k, column `(V[x] + j) mod 64`, row by `DRAW_VERTICAL`. -/
def SpritePixelAt (s : State) (x y : Reg) (k j : Nat) (r : Fin 32) (c : Fin 64) : Prop :=
  j < 8 ∧ (s.readByte (s.i.toNat + k)).getLsbD (7 - j) = true ∧ ((s.readV x).toNat + j) % 64 = c.val ∧
    match s.cfg.drawVertical with
    | .clip => (s.readV y).toNat % 32 + k = r.val
    | .wrap => ((s.readV y).toNat + k) % 32 = r.val

/-- The sprite of `DRW Vx, Vy, n` at `s` has a 1 on cell `(r, c)`. -/
def SpriteCovers (s : State) (x y : Reg) (n : Imm4) (r : Fin 32) (c : Fin 64) : Prop :=
  ∃ k j, k < n.toNat ∧ SpritePixelAt s x y k j r c

/-- The registers V0 to V[x], which Fx65 writes (43_index_memory.md R256). -/
def regsUpTo (x : Reg) : List Reg := (List.range (x.toNat + 1)).map (BitVec.ofNat 4)

/-- The keys that end an Fx0A wait in this cycle (45_keypad_timers.md R304). -/
def KeyQualifies (s : State) (k : Nat) : Prop :=
  k < 16 ∧ s.input.key.getLsbD k = true ∧
    match s.cfg.keyWaitTrigger with
    | .level => True
    | .edge => s.wait = true ∧ s.kprev.getLsbD k = false

/-- The instructions that read KEY (10_state.md R60). -/
def readsKey : Instr → Bool
  | .skp _ | .sknp _ | .ldVxK _ => true
  | _ => false

/-- The instruction that reads RND (R62). -/
def readsRnd : Instr → Bool
  | .rnd _ _ => true
  | _ => false

end Sys2Proof.Machine

open Sys2Proof Sys2Proof.Machine

/-! ### Encoding -/

/-- For every decode mode and every instruction with every operand, decoding its encoding gives it back. Every term of
Instr is well-formed (log entry 12). (30_encoding.md sections 1 to 3) -/
def Obligations.DecodeOfEncodeIsTheInstruction : Prop :=
  ∀ (mode : DecodeMode) (i : Instr), decode mode (encode i) = .instr i

/-- Every word that STRICT decodes to an instruction is the encoding of that instruction, so no bit of it is dropped.
FAMILY decodes every word of family 5 to SE and of family 9 to SNE of the registers named by bits 11 to 8 and 7 to
4, whatever bits 3 to 0 are; in family 0 a low byte of E0 is CLS, of EE is RET and any other is unknown, whatever
bits 11 to 8 are; and every word of another family decodes as in STRICT. The modes are the spec's decision D3.
(30_encoding.md section 3 (opcode map, DECODE_MODE), 92_eei_decisions.md D3) -/
def Obligations.RecognizedWordsCarryTheirOperands : Prop :=
  (∀ (op : Word) (i : Instr), decode .strict op = .instr i → encode i = op) ∧
  ∀ op : Word,
    (hiNibble op = 5 → decode .family op = .instr (.seReg (numX op) (numY op))) ∧
    (hiNibble op = 9 → decode .family op = .instr (.sneReg (numX op) (numY op))) ∧
    (hiNibble op = 0 → decode .family op =
      if loByte op = 0xE0 then .instr .cls else if loByte op = 0xEE then .instr .ret else .unknown op) ∧
    (hiNibble op ∉ [0, 5, 9] → decode .family op = decode .strict op)

/-- In both modes the rows a word matches under mask and match are the one row of the decoded instruction's variant,
and no row where the word is unknown; so rows never overlap. That decode has no overlap is marked derived in the
spec; the modes are its decision D3. (30_encoding.md section 3 (decode function, no overlap), opcode_table.json) -/
def Obligations.DecodeAgreesWithOpcodeTable : Prop :=
  ∀ (mode : DecodeMode) (op : Word),
    tableVariants mode op =
      match decode mode op with
      | .instr i => [i.variant]
      | .unknown _ => []

/-- A word is unknown in STRICT exactly when it is 0xxx other than 00E0 and 00EE, 5xyN or 9xyN with N not 0, 8xyN with
N in 8 to D or F, ExKK with KK not 9E or A1, or FxKK with KK not one of the nine; in FAMILY family 0 is unknown
when its low byte is not E0 or EE and 5xyN, 9xyN are all recognized. An unknown answer carries the word itself. The
list is marked derived in the spec (D3). (30_encoding.md section 4 (unknown words), 30_encoding.md section 3
(DECODE_MODE)) -/
def Obligations.UnknownWordsOfEachMode : Prop :=
  (∀ (mode : DecodeMode) (op w : Word), decode mode op = .unknown w → w = op) ∧
  (∀ op : Word, decode .strict op = .unknown op ↔
    (hiNibble op = 0 ∧ op.toNat ≠ 0x00E0 ∧ op.toNat ≠ 0x00EE) ∨
    ((hiNibble op = 5 ∨ hiNibble op = 9) ∧ loNibble op ≠ 0) ∨
    (hiNibble op = 8 ∧ loNibble op ∈ [8, 9, 10, 11, 12, 13, 15]) ∨
    (hiNibble op = 14 ∧ loByte op ∉ [0x9E, 0xA1]) ∨
    (hiNibble op = 15 ∧ loByte op ∉ [0x07, 0x0A, 0x15, 0x18, 0x1E, 0x29, 0x33, 0x55, 0x65])) ∧
  (∀ op : Word, decode .family op = .unknown op ↔
    (hiNibble op = 0 ∧ loByte op ∉ [0xE0, 0xEE]) ∨
    (hiNibble op = 8 ∧ loNibble op ∈ [8, 9, 10, 11, 12, 13, 15]) ∨
    (hiNibble op = 14 ∧ loByte op ∉ [0x9E, 0xA1]) ∨
    (hiNibble op = 15 ∧ loByte op ∉ [0x07, 0x0A, 0x15, 0x18, 0x1E, 0x29, 0x33, 0x55, 0x65]))

/-- In both modes a word of family 0xE with low byte 9E is SKP and with A1 is SKNP, a word of family 0xF with low byte
07, 0A, 15, 18, 1E, 29, 33, 55, 65 is Fx07 to Fx65 in that order, each with x from bits 11 to 8; every other low
byte of the two families is unknown. (R118, R119) -/
def Obligations.FamiliesEAndFDispatchOnLowByte : Prop :=
  ∀ (mode : DecodeMode) (op : Word),
    (hiNibble op = 14 → decode mode op =
      if loByte op = 0x9E then .instr (.skp (numX op))
      else if loByte op = 0xA1 then .instr (.sknp (numX op))
      else .unknown op) ∧
    (hiNibble op = 15 → decode mode op =
      if loByte op = 0x07 then .instr (.ldVxDt (numX op))
      else if loByte op = 0x0A then .instr (.ldVxK (numX op))
      else if loByte op = 0x15 then .instr (.ldDtVx (numX op))
      else if loByte op = 0x18 then .instr (.ldStVx (numX op))
      else if loByte op = 0x1E then .instr (.addIVx (numX op))
      else if loByte op = 0x29 then .instr (.ldFVx (numX op))
      else if loByte op = 0x33 then .instr (.ldBVx (numX op))
      else if loByte op = 0x55 then .instr (.ldMemVx (numX op))
      else if loByte op = 0x65 then .instr (.ldVxMem (numX op))
      else .unknown op)

/-- 1204 is JP 0x204, 220A CALL 0x20A, 3000 SE V0,0, 70FF ADD V0,FF, 8327 SUBN V3,V2, A300 LD I,0x300, D005 DRW
V0,V0,5, E39E SKP V3, F265 LD V2,[I]. A sanity statement. (95_test_vectors.md section 3 (programs P1, P2, P3, P4,
P8), 30_encoding.md section 6) -/
def Obligations.WordsOfTheSpecDecode : Prop :=
  decode .strict 0x1204 = .instr (.jp 0x204) ∧ decode .strict 0x220A = .instr (.call 0x20A) ∧
  decode .strict 0x3000 = .instr (.seImm 0 0x00) ∧ decode .strict 0x70FF = .instr (.addImm 0 0xFF) ∧
  decode .strict 0x8327 = .instr (.subn 3 2) ∧ decode .strict 0xA300 = .instr (.ldI 0x300) ∧
  decode .strict 0xD005 = .instr (.drw 0 0 5) ∧ decode .strict 0xE39E = .instr (.skp 3) ∧
  decode .strict 0xF265 = .instr (.ldVxMem 2)

/-! ### Reset, load and boot -/

/-- In the machine's reset state, and after the RESET operation in any state, V0 to VF are 0x00, I is 0x0000, PC is
0x200, SP is 0, every stack entry is 0x0000 and DT and ST are 0. (R33, R35, R38, R40, R44, R47) -/
def Obligations.ResetClearsRegistersStackTimersIndex : Prop :=
  ∀ t : State, (t = State.reset ∨ ∃ s : State, t = s.hostReset) →
    (∀ r, t.readV r = 0x00) ∧ t.readV regF = 0x00 ∧ t.i = 0x0000 ∧ t.pc = 0x200 ∧ t.sp.val = 0 ∧
    (∀ k (h : k < 16), t.stack[k] = 0x0000) ∧ t.dt = 0 ∧ t.st = 0

/-- In the reset state, and after RESET in any state (HALTED included), every pixel of FB is 0, WAIT and KPREV are 0,
RUN_STATE is RUNNING and the fault record is NONE, 0, 0. This reset is the spec's own choice D27. RESET leaves no
outputs and keeps the parameters and the supplied inputs (the model's fields, log entries 1 to 3). (10_state.md
sections 7 and 9 (reset of FB, WAIT, KPREV, RUN_STATE and the fault record), 92_eei_decisions.md D27) -/
def Obligations.ResetClearsScreenWaitAndFaultRecord : Prop :=
  ∀ t : State, (t = State.reset ∨ ∃ s : State, t = s.hostReset) →
    (∀ r c, pixel t.fb r c = false) ∧ t.wait = false ∧ t.kprev = 0 ∧ t.runState = .running ∧
    t.faultKind = .none ∧ t.faultPc = 0 ∧ t.faultAddr = 0 ∧ t.out = none ∧
    (∀ s : State, t = s.hostReset → t.cfg = s.cfg ∧ t.inputs = s.inputs)

/-- For every configuration with FONT_BASE + 80 <= 0x200, after RESET byte j of glyph d is at FONT_BASE + 5d + j and
every other byte is 0. The font bytes are the spec's general knowledge G9, FONT_BASE its decision D11.
(70_reset_and_hazards.md section 1 (RESET and the font), 92_eei_decisions.md D11, 93_implementation_defined.md G9) -/
def Obligations.ResetMemoryIsZeroButTheFont : Prop :=
  ∀ s : State, s.cfg.wellFormed = true →
    (∀ d j, d < 16 → j < 5 →
      (s.hostReset.readByte (s.cfg.fontBase + 5 * d + j)).toNat = (fontRows.getD d []).getD j 0) ∧
    (∀ a, a < s.cfg.fontBase ∨ s.cfg.fontBase + 80 ≤ a → s.hostReset.readByte a = 0)

/-- LOAD of L <= 3584 bytes answers OK, byte k of the ROM is at 0x200 + k, every other byte of memory, every register
and PC is as before; LOAD of more answers CAPACITY and leaves the state as it was (the spec's decision D29).
(70_reset_and_hazards.md section 2 (LOAD), 92_eei_decisions.md D29) -/
def Obligations.LoadPlacesTheRomOrChangesNothing : Prop :=
  ∀ (s : State) (rom : List Byte),
    (rom.length ≤ 3584 → ∃ t, s.load rom = (.ok, t) ∧ t.pc = s.pc ∧ Frame [] [.mem] s t ∧
      ∀ a, t.readByte a = if 0x200 ≤ a ∧ a < 0x200 + rom.length then rom.getD (a - 0x200) 0 else s.readByte a) ∧
    (3584 < rom.length → s.load rom = (.capacity, s))

/-- RESET is answered in every session, with the reset core. After it, or after creation, a LOAD of 2 to 3584 bytes is
answered OK, the core runs with PC at 0x200, and a CYCLE with any inputs executes the decoding of the ROM's first
two bytes, big-endian, and ends the cycle; its answer is the outputs. A CYCLE not after a failed LOAD answers the
machine's step on the given inputs. A LOAD that is not the first after RESET, or that comes after a CYCLE, is
refused, and so is a CYCLE after a LOAD that failed: the spec gives a broken duty no meaning. That RESET equals
creation is the spec's decision D27, that LOAD runs once, all or nothing, its decision D29.
(70_reset_and_hazards.md sections 1 and 2 (RESET, LOAD, boot sequence), 10_state.md section 12 (duties of the
host), 60_exceptions.md section 1 (load error), 92_eei_decisions.md D27, D29) -/
def Obligations.BootRunsTheFirstWordOfTheRom : Prop :=
  (∀ z : Session, z.operate .reset = .next (⟨z.core.hostReset, .fresh⟩, .nothing)) ∧
  (∀ (z₀ : Session) (rom : List Byte),
    ((∃ c, z₀ = Session.start c) ∨ ∃ z : Session, z.operate .reset = .next (z₀, .nothing)) →
    2 ≤ rom.length → rom.length ≤ 3584 →
    ∃ z, z₀.operate (.load rom) = .next (z, .load .ok) ∧ z.phase = .loaded ∧ z.core.runState = .running ∧ z.core.pc = 0x200 ∧
      ∃ op : Word, op.toNat = 256 * (rom.getD 0 0).toNat + (rom.getD 1 0).toNat ∧ z.core.fetch = .ok op ∧
        ∀ inp : CycleInput, ∃ t u,
          execDecoded (decode z.core.cfg.decodeMode op) { z.core with inputs := [inp] } = .next t ∧
          u = t.endCycle 0x200 op (decode z.core.cfg.decodeMode op) ∧
          z.operate (.cycle inp) = .next (⟨u, .running⟩, .cycle u.out)) ∧
  (∀ (z : Session) (inp : CycleInput), z.phase ≠ .loadFailed →
    ∃ u, step { z.core with inputs := [inp] } = .next u ∧ z.operate (.cycle inp) = .next (⟨u, .running⟩, .cycle u.out)) ∧
  (∀ (z₀ : Session) (rom : List Byte),
    ((∃ c, z₀ = Session.start c) ∨ ∃ z : Session, z.operate .reset = .next (z₀, .nothing)) → 3584 < rom.length →
    ∃ z, z₀.operate (.load rom) = .next (z, .load .capacity) ∧ z.core = z₀.core ∧
      ∀ inp, z.operate (.cycle inp) = .refused .cycleAfterFailedLoad) ∧
  (∀ (z : Session) (rom : List Byte), z.phase ≠ .fresh → z.operate (.load rom) = .refused .loadOutsideBoot)

/-! ### The cycle -/

/-- When the core runs, PC is at most 4094 and the bytes at PC and PC + 1 decode to the instruction i, the step is exec
of i at that state followed by the end of the cycle (tick and outputs, or the fault's outputs), which leaves every
element of the spec's state but DT and ST as exec left it; the timer, output and fault statements say what it does
to DT, ST and the outputs. (40_cycle.md sections 1 to 5) -/
def Obligations.StepRunsTheDecodedInstruction : Prop :=
  ∀ (s : State) (op : Word) (i : Instr), s.runState = .running → s.pc.toNat ≤ 4094 →
    op.toNat = 256 * (s.readByte s.pc.toNat).toNat + (s.readByte (s.pc.toNat + 1)).toNat →
    decode s.cfg.decodeMode op = .instr i →
    ∃ t u, exec i s = .next t ∧ step s = .next u ∧ u = t.endCycle s.pc op (.instr i) ∧ SameButTimers t u

/-- With PC at most 4094, even or odd, the fetch gives the word whose high byte is MEM[PC] and whose low byte is MEM[PC
+ 1], so every instruction is one 16-bit word. (R84, R110) -/
def Obligations.FetchIsBigEndian : Prop :=
  ∀ s : State, s.pc.toNat ≤ 4094 →
    ∃ op, s.fetch = .ok op ∧ op.toNat / 256 = (s.readByte s.pc.toNat).toNat ∧
      op.toNat % 256 = (s.readByte (s.pc.toNat + 1)).toNat

/-- With the core running and PC above 4094, the step leaves the state as it was but for the fault record: ADDRESS,
FAULT_PC = PC, FAULT_ADDR = max(PC, 4096). STATUS is FAULT, BEEP 0, and the DIAG record of class FAULT has no
opcode and no variant. The entry and the record's fields are the spec's decisions D21, D22, D34; that the variant
of a fetch fault is NONE is the model's reading of R155 (log entry 6). (40_cycle.md section 2 (fetch),
60_exceptions.md section 2 (fault entry), 92_eei_decisions.md D21, D22, D34) -/
def Obligations.FetchOutOfRangeFaults : Prop :=
  ∀ s : State, s.runState = .running → 4094 < s.pc.toNat →
    ∃ t u, step s = .next u ∧ FaultTaken s t .address (max s.pc.toNat 4096) ∧ SameCore t u ∧
      u.out = some ⟨.fault, false, some ⟨.fault, s.pc, none, none, some (.address, max s.pc.toNat 4096)⟩⟩

/-- When the word fetched by a running core is unknown, the step answers a next state: the core still runs, PC is PC +
2, and no register, memory byte, stack entry, pixel, WAIT, KPREV or fault record changes; only PC, the timers and
the outputs do, STATUS is OK, and the DIAG record has the class UNKNOWN with the PC and that word. STATUS and the
record are the spec's decisions D2, D30, D34. (30_encoding.md section 4 (unknown opcodes), 40_cycle.md sections 4
and 6, 60_exceptions.md section 1, 92_eei_decisions.md D2, D30, D34) -/
def Obligations.UnknownOpcodeAdvancesByTwo : Prop :=
  ∀ (s : State) (op : Word), s.runState = .running → s.fetch = .ok op → decode s.cfg.decodeMode op = .unknown op →
    ∃ u, step s = .next u ∧ SameButTimers (s.setPc (s.pc + 2)) u ∧ u.runState = .running ∧
      ∃ b, u.out = some ⟨.ok, b, some ⟨.unknown, s.pc, some op, some .unknown, none⟩⟩

/-- With RUN_STATE HALTED the step answers a state in which every element of the spec's state is as before, STATUS is
HALTED, BEEP is 0 and there is no DIAG record. HALTED is the spec's decision D23. (40_cycle.md section 1 (cycle on
a halted core), 92_eei_decisions.md D23) -/
def Obligations.HaltedCycleChangesNothing : Prop :=
  ∀ s : State, s.runState = .halted →
    ∃ u, step s = .next u ∧ SameCore s u ∧ u.out = some ⟨.halted, false, none⟩

/-- When a running core's decoded instruction halts it, the step leaves every element but the fault record as before
the cycle, DT and ST included; FAULT_PC is the PC of the instruction; STATUS is FAULT, BEEP 0, and the DIAG record
of class FAULT carries the word and the fault. Decisions D21, D22, D34; that the record's variant is the
instruction's is the model's reading (log entry 6). (60_exceptions.md section 2 (fault entry), 40_cycle.md sections
5 and 6, 92_eei_decisions.md D21, D34) -/
def Obligations.FaultingInstructionStepHasNoTick : Prop :=
  ∀ (s t : State) (op : Word) (i : Instr), s.runState = .running → s.fetch = .ok op →
    decode s.cfg.decodeMode op = .instr i → exec i s = .next t → t.runState = .halted →
    ∃ u, step s = .next u ∧ SameCore t u ∧ FaultTaken s t t.faultKind t.faultAddr ∧
      u.out = some ⟨.fault, false, some ⟨.fault, s.pc, some op, some i.variant, some (t.faultKind, t.faultAddr)⟩⟩

/-- In a cycle that executes and leaves the core running, an enabled tick moves a nonzero ST down by 1 and leaves an ST
of 0; BEEP is 1 exactly when the tick is enabled and ST was 1 before it. In every other cycle BEEP is 0 and ST is
not ticked: it is as before a halted cycle and a fetch fault, and as execute left it where execute faults or the
tick is not enabled. Which cycles tick is the spec's decisions D15, D16, D21, HALTED its decision D23. (40_cycle.md
section 5 (timer tick), 10_state.md section 11 (BEEP), 92_eei_decisions.md D15, D16, D21, D23) -/
def Obligations.SoundTimerTickAndBeep : Prop :=
  ∀ s u : State, step s = .next u → ∃ o, u.out = some o ∧
    (s.runState = .halted → o.beep = false ∧ u.st = s.st) ∧
    (∀ e, s.fetch = .error e → o.beep = false ∧ u.st = s.st) ∧
    (∀ op t, s.runState = .running → s.fetch = .ok op → execDecoded (decode s.cfg.decodeMode op) s = .next t →
      (o.beep = true ↔ t.runState = .running ∧ TickOn s ∧ t.st = 1) ∧
      (t.runState = .running → TickOn s → u.st.toNat = t.st.toNat - 1) ∧
      (¬(t.runState = .running ∧ TickOn s) → u.st = t.st))

/-- In a cycle that executes an instruction or an unknown word and leaves the core running, an enabled tick moves DT
down by 1 and leaves a DT of 0, whatever ST is; a tick that is not enabled, and a faulting cycle, leave DT as
execute left it. Decisions D15, D16, D21 of the spec. (40_cycle.md section 5 (timer tick), 92_eei_decisions.md D15,
D16, D21) -/
def Obligations.DelayTimerTick : Prop :=
  ∀ (s t : State) (op : Word), s.runState = .running → s.fetch = .ok op →
    execDecoded (decode s.cfg.decodeMode op) s = .next t →
    ∃ u, step s = .next u ∧
      (t.runState = .running → TickOn s → u.dt.toNat = t.dt.toNat - 1) ∧
      (¬(t.runState = .running ∧ TickOn s) → u.dt = t.dt)

/-- When a running core executes a decoded instruction and still runs, STATUS and the DIAG class are WAITING and WAIT
exactly if it is Fx0A and WAIT is set after it, OK and EXEC otherwise; the record has the PC, the word and the
variant and no fault. The outputs are the spec's decisions D2, D34. (40_cycle.md section 6 (outputs of the cycle),
92_eei_decisions.md D2, D34) -/
def Obligations.OutputsOfACompletedCycle : Prop :=
  ∀ (s t : State) (op : Word) (i : Instr), s.runState = .running → s.fetch = .ok op →
    decode s.cfg.decodeMode op = .instr i → exec i s = .next t → t.runState = .running →
    ∃ u b, step s = .next u ∧
      ((∃ x, i = .ldVxK x) ∧ t.wait = true →
        u.out = some ⟨.waiting, b, some ⟨.wait, s.pc, some op, some i.variant, none⟩⟩) ∧
      (¬((∃ x, i = .ldVxK x) ∧ t.wait = true) →
        u.out = some ⟨.ok, b, some ⟨.exec, s.pc, some op, some i.variant, none⟩⟩)

/-- Along any run of n steps of which each starts running, has its tick enabled and leaves the core running: if none of
them decodes to Fx15, DT at the end is DT at the start minus n, or 0; if none decodes to Fx18, the same of ST. So
DT = t is 0 after t such cycles and stays 0. Marked derived in the spec. (45_keypad_timers.md section 3 (timer
decay law; marked derived)) -/
def Obligations.TimersDecayOverARun : Prop :=
  ∀ (ss : Nat → State) (n : Nat), IsRun ss n →
    (∀ k, k < n → (ss k).runState = .running ∧ TickOn (ss k) ∧ (ss (k + 1)).runState = .running) →
    ((∀ k, k < n → ∀ x, (ss k).nextDecoded ≠ some (.instr (.ldDtVx x))) →
      (ss n).dt.toNat = (ss 0).dt.toNat - n) ∧
    ((∀ k, k < n → ∀ x, (ss k).nextDecoded ≠ some (.instr (.ldStVx x))) →
      (ss n).st.toNat = (ss 0).st.toNat - n)

/-- When PC is at a 1nnn with nnn equal to its own address, the step answers a state that is at the self-jump again,
with every element of the spec's state but DT and ST as before. That this is a finished program is the spec's
decision D35. (70_reset_and_hazards.md section 5 (end of a run), 92_eei_decisions.md D35) -/
def Obligations.SelfJumpRepeatsForever : Prop :=
  ∀ s : State, s.AtSelfJump → ∃ u, step s = .next u ∧ u.AtSelfJump ∧ SameButTimers s u

/-! ### Control flow -/

/-- JP nnn answers a state with PC = nnn, JP V0, nnn one with PC = nnn + V0 (at most 0x10FE, not masked to 12 bits),
for every nnn and V0; no flag, register or memory byte changes and neither faults. (R182, R188) -/
def Obligations.JumpsSetThePc : Prop :=
  ∀ (nnn : Imm12) (s : State),
    (∃ t, exec (.jp nnn) s = .next t ∧ t.pc.toNat = nnn.toNat ∧ Frame [] [] s t) ∧
    (∃ t, exec (.jpV0 nnn) s = .next t ∧ t.pc.toNat = nnn.toNat + (s.readV 0).toNat ∧ Frame [] [] s t)

/-- With SP at most 15, CALL nnn answers a state with STACK[SP] = PC, every other entry as before, SP one more and PC =
nnn; nothing else changes. The encoding of SP is the spec's decision D28. (41_control_flow.md section 2 (CALL),
10_state.md section 5 (call stack), 92_eei_decisions.md D28) -/
def Obligations.CallPushesItsOwnAddress : Prop :=
  ∀ (nnn : Imm12) (s : State), s.sp.val ≤ 15 →
    ∃ t, exec (.call nnn) s = .next t ∧ t.pc.toNat = nnn.toNat ∧ t.sp.val = s.sp.val + 1 ∧
      (∀ k (h : k < 16), t.stack[k] = if k = s.sp.val then s.pc else s.stack[k]) ∧ Frame [] [.stack] s t

/-- With SP at least 1, RET answers a state with SP one less and PC = STACK[SP - 1] + 2 modulo 65536; the entry is not
cleared and nothing else changes. The encoding of SP is the spec's decision D28. (41_control_flow.md section 2
(RET), 92_eei_decisions.md D28) -/
def Obligations.ReturnPopsAndAdvancesByTwo : Prop :=
  ∀ (s : State) (h : s.sp.val - 1 < 16), 1 ≤ s.sp.val →
    ∃ t, exec .ret s = .next t ∧ t.sp.val = s.sp.val - 1 ∧
      t.pc.toNat = (s.stack[s.sp.val - 1].toNat + 2) % 65536 ∧ t.stack = s.stack ∧ Frame [] [.stack] s t

/-- CALL with SP = 16 and RET with SP = 0 take the fault's entry: HALTED, the kind, FAULT_PC = PC, FAULT_ADDR = 0, and
nothing else changes, SP and the stack included. The entry is the spec's decisions D21 to D23. (60_exceptions.md
sections 1 and 2 (stack faults, fault entry), 92_eei_decisions.md D21, D22, D23) -/
def Obligations.StackFaultsHaltTheCore : Prop :=
  ∀ s : State,
    (∀ nnn : Imm12, s.sp.val = 16 → ∃ t, exec (.call nnn) s = .next t ∧ FaultTaken s t .stackOverflow 0) ∧
    (s.sp.val = 0 → ∃ t, exec .ret s = .next t ∧ FaultTaken s t .stackUnderflow 0)

/-- For every x, y, kk and state: SE and SNE, with an immediate or a register, answer a state with PC + 4 modulo 65536
if V[x] equals (SE) or differs from (SNE) the operand and PC + 2 otherwise; no flag and nothing else changes.
(R184, R185, R186, R187) -/
def Obligations.RegisterSkipsAdvanceByFourOrTwo : Prop :=
  ∀ (x y : Reg) (kk : Imm8) (s : State),
    (∃ t, exec (.seImm x kk) s = .next t ∧ Frame [] [] s t ∧
      t.pc.toNat = (s.pc.toNat + if (s.readV x).toNat = kk.toNat then 4 else 2) % 65536) ∧
    (∃ t, exec (.sneImm x kk) s = .next t ∧ Frame [] [] s t ∧
      t.pc.toNat = (s.pc.toNat + if (s.readV x).toNat = kk.toNat then 2 else 4) % 65536) ∧
    (∃ t, exec (.seReg x y) s = .next t ∧ Frame [] [] s t ∧
      t.pc.toNat = (s.pc.toNat + if (s.readV x).toNat = (s.readV y).toNat then 4 else 2) % 65536) ∧
    (∃ t, exec (.sneReg x y) s = .next t ∧ Frame [] [] s t ∧
      t.pc.toNat = (s.pc.toNat + if (s.readV x).toNat = (s.readV y).toNat then 2 else 4) % 65536)

/-- SKP answers a state with PC + 4 if the key V[x] mod 16 is pressed in this cycle and PC + 2 otherwise, SKNP the
other way round; nothing else changes. That only the low nibble selects the key is the spec's decision D13.
(45_keypad_timers.md section 1 (key index, SKP, SKNP), 92_eei_decisions.md D13) -/
def Obligations.KeySkipsTestTheLowNibbleKey : Prop :=
  ∀ (x : Reg) (s : State),
    (∃ t, exec (.skp x) s = .next t ∧ Frame [] [] s t ∧
      t.pc.toNat = (s.pc.toNat + if s.input.key.getLsbD ((s.readV x).toNat % 16) = true then 4 else 2) % 65536) ∧
    (∃ t, exec (.sknp x) s = .next t ∧ Frame [] [] s t ∧
      t.pc.toNat = (s.pc.toNat + if s.input.key.getLsbD ((s.readV x).toNat % 16) = true then 2 else 4) % 65536)

/-- When a running core with SP at most 15 and PC at most 4094 decodes CALL nnn, and the word at nnn (at most 4094)
decodes to RET, two steps lead to a running core with PC = the CALL's address + 2 and SP as before. Marked derived
in the spec. (41_control_flow.md section 3 (call/return law; marked derived)) -/
def Obligations.CallThenReturnLandsAfterTheCall : Prop :=
  ∀ (s : State) (op : Word) (nnn : Imm12), s.runState = .running → s.sp.val ≤ 15 → s.fetch = .ok op →
    decode s.cfg.decodeMode op = .instr (.call nnn) → nnn.toNat ≤ 4094 →
    decode s.cfg.decodeMode (wordOfBytes (s.readByte nnn.toNat) (s.readByte (nnn.toNat + 1))) = .instr .ret →
    ∃ t u, step s = .next t ∧ step t = .next u ∧ u.runState = .running ∧
      u.pc.toNat = s.pc.toNat + 2 ∧ u.sp = s.sp

/-! ### Loads and arithmetic -/

/-- LD Vx, kk answers a state with V[x] = kk and ADD Vx, kk one with V[x] = (V[x] + kk) mod 256, PC + 2, for every x,
VF included; every other register, VF among them unless x = F, and everything else is unchanged. (R210, R211) -/
def Obligations.ImmediateLoadAndAdd : Prop :=
  ∀ (x : Reg) (kk : Imm8) (s : State),
    (∃ t, exec (.ldImm x kk) s = .next t ∧ t.readV x = kk ∧ t.pc = s.pc + 2 ∧ Frame [x] [] s t) ∧
    (∃ t, exec (.addImm x kk) s = .next t ∧ (t.readV x).toNat = ((s.readV x).toNat + kk.toNat) % 256 ∧
      t.pc = s.pc + 2 ∧ Frame [x] [] s t)

/-- LD Vx, Vy answers a state with V[x] = V[y]; OR, AND, XOR one in which bit k of V[x] is the or, and, exclusive or of
the operands' bits k; PC + 2 and nothing else changes, VF included unless x = F. Operand roles and VF are the
spec's decisions D7, D8 and general knowledge G5. (42_alu.md section 1 (8xy0 to 8xy3), 92_eei_decisions.md D7, D8,
93_implementation_defined.md G5) -/
def Obligations.CopyAndLogicalOperations : Prop :=
  ∀ (x y : Reg) (s : State),
    (∃ t, exec (.ldReg x y) s = .next t ∧ t.readV x = s.readV y ∧ t.pc = s.pc + 2 ∧ Frame [x] [] s t) ∧
    (∃ t, exec (.orReg x y) s = .next t ∧ t.pc = s.pc + 2 ∧ Frame [x] [] s t ∧
      ∀ k < 8, (t.readV x).getLsbD k = ((s.readV x).getLsbD k || (s.readV y).getLsbD k)) ∧
    (∃ t, exec (.andReg x y) s = .next t ∧ t.pc = s.pc + 2 ∧ Frame [x] [] s t ∧
      ∀ k < 8, (t.readV x).getLsbD k = ((s.readV x).getLsbD k && (s.readV y).getLsbD k)) ∧
    (∃ t, exec (.xorReg x y) s = .next t ∧ t.pc = s.pc + 2 ∧ Frame [x] [] s t ∧
      ∀ k < 8, (t.readV x).getLsbD k = ((s.readV x).getLsbD k != (s.readV y).getLsbD k))

/-- ADD Vx, Vy answers a state with VF = 1 if V[x] + V[y] > 255 and 0 otherwise, and V[x] = (V[x] + V[y]) mod 256
unless x = F, operands read before anything is written; PC + 2 and nothing else changes. Decisions D6, D37.
(42_alu.md sections 1 and 2 (flag write order, 8xy4), 92_eei_decisions.md D6, D37) -/
def Obligations.AddSetsCarry : Prop :=
  ∀ (x y : Reg) (s : State), ∃ t, exec (.addReg x y) s = .next t ∧ t.pc = s.pc + 2 ∧ Frame [x, regF] [] s t ∧
    (t.readV regF).toNat = (if (s.readV x).toNat + (s.readV y).toNat > 255 then 1 else 0) ∧
    (x ≠ regF → (t.readV x).toNat = ((s.readV x).toNat + (s.readV y).toNat) % 256)

/-- SUB answers a state with V[x] = (V[x] + 256 - V[y]) mod 256 and VF = 1 if V[x] >= V[y] and 0 otherwise, SUBN the
same with the operands exchanged; with x = F VF holds the flag; PC + 2 and nothing else changes. Decisions D6, D8,
D37, general knowledge G7. (42_alu.md sections 1 and 2 (flag write order, 8xy5, 8xy7), 92_eei_decisions.md D6, D8,
D37, 93_implementation_defined.md G7) -/
def Obligations.SubtractionsSetNotBorrow : Prop :=
  ∀ (x y : Reg) (s : State),
    (∃ t, exec (.sub x y) s = .next t ∧ t.pc = s.pc + 2 ∧ Frame [x, regF] [] s t ∧
      (t.readV regF).toNat = (if (s.readV x).toNat ≥ (s.readV y).toNat then 1 else 0) ∧
      (x ≠ regF → (t.readV x).toNat = ((s.readV x).toNat + 256 - (s.readV y).toNat) % 256)) ∧
    (∃ t, exec (.subn x y) s = .next t ∧ t.pc = s.pc + 2 ∧ Frame [x, regF] [] s t ∧
      (t.readV regF).toNat = (if (s.readV y).toNat ≥ (s.readV x).toNat then 1 else 0) ∧
      (x ≠ regF → (t.readV x).toNat = ((s.readV y).toNat + 256 - (s.readV x).toNat) % 256))

/-- With src = V[x] when SHIFT_SOURCE is X and V[y] when it is Y, SHR answers a state with V[x] = src div 2 and VF =
src mod 2, SHL one with V[x] = 2 src mod 256 and VF = src div 128; with x = F VF holds the flag; PC + 2 and nothing
else changes. Decisions D4 to D6, general knowledge G6. (42_alu.md section 2 (shift source, 8xy6, 8xyE),
92_eei_decisions.md D4, D5, D6, 93_implementation_defined.md G6) -/
def Obligations.ShiftsLeaveTheBitShiftedOut : Prop :=
  ∀ (x y : Reg) (s : State) (src : Nat),
    src = (match s.cfg.shiftSource with | .x => (s.readV x).toNat | .y => (s.readV y).toNat) →
    (∃ t, exec (.shr x y) s = .next t ∧ t.pc = s.pc + 2 ∧ Frame [x, regF] [] s t ∧
      (t.readV regF).toNat = src % 2 ∧ (x ≠ regF → (t.readV x).toNat = src / 2)) ∧
    (∃ t, exec (.shl x y) s = .next t ∧ t.pc = s.pc + 2 ∧ Frame [x, regF] [] s t ∧
      (t.readV regF).toNat = src / 128 ∧ (x ≠ regF → (t.readV x).toNat = 2 * src % 256))

/-- RND Vx, kk answers a state in which bit k of V[x] is bit k of the cycle's RND input where kk has a 1 and 0 where it
has a 0; PC + 2 and nothing else changes, VF included unless x = F. It holds for every value of the input; that the
byte is a free input is the spec's decision D20. (42_alu.md section 3 (Cxkk), 92_eei_decisions.md D20) -/
def Obligations.RandomByteIsMasked : Prop :=
  ∀ (x : Reg) (kk : Imm8) (s : State), ∃ t, exec (.rnd x kk) s = .next t ∧ t.pc = s.pc + 2 ∧ Frame [x] [] s t ∧
    ∀ k < 8, (t.readV x).getLsbD k = (s.input.rnd.getLsbD k && kk.getLsbD k)

/-! ### Index register and memory -/

/-- LD I, nnn answers a state with I = nnn for every nnn from 0x000 to 0xFFF and PC + 2; no flag, no register, no
memory byte and nothing else changes. (R251) -/
def Obligations.LoadIndexImmediate : Prop :=
  ∀ (nnn : Imm12) (s : State), ∃ t, exec (.ldI nnn) s = .next t ∧ t.i.toNat = nnn.toNat ∧ t.pc = s.pc + 2 ∧
    Frame [] [.i] s t

/-- ADD I, Vx answers a state with I = (I + V[x]) mod 65536, with no 12-bit wrap and VF unchanged; LD F, Vx, with
FONT_BASE + 80 <= 0x200, one with I = FONT_BASE + 5 (V[x] mod 16); PC + 2 and nothing else changes. Decisions D9,
D11, D12. (43_index_memory.md section 2 (Fx1E, Fx29), 92_eei_decisions.md D9, D11, D12) -/
def Obligations.AddToIndexAndGlyphAddress : Prop :=
  ∀ (x : Reg) (s : State),
    (∃ t, exec (.addIVx x) s = .next t ∧ t.i.toNat = (s.i.toNat + (s.readV x).toNat) % 65536 ∧ t.pc = s.pc + 2 ∧
      Frame [] [.i] s t) ∧
    (s.cfg.wellFormed = true → ∃ t, exec (.ldFVx x) s = .next t ∧
      t.i.toNat = s.cfg.fontBase + 5 * ((s.readV x).toNat % 16) ∧ t.pc = s.pc + 2 ∧ Frame [] [.i] s t)

/-- LD B, Vx answers a state whose bytes at I, I + 1, I + 2 are V[x] div 100, V[x] div 10 mod 10 and V[x] mod 10; every
other byte, I, every register and everything else but PC is unchanged. The check before the writes is decision D24.
(43_index_memory.md section 2 (Fx33), 92_eei_decisions.md D24) -/
def Obligations.DecimalDigitsStored : Prop :=
  ∀ (x : Reg) (s : State), s.i.toNat + 2 ≤ 4095 →
    ∃ t, exec (.ldBVx x) s = .next t ∧ t.pc = s.pc + 2 ∧ Frame [] [.mem] s t ∧
      (t.readByte (s.effective 0)).toNat = (s.readV x).toNat / 100 ∧
      (t.readByte (s.effective 1)).toNat = (s.readV x).toNat / 10 % 10 ∧
      (t.readByte (s.effective 2)).toNat = (s.readV x).toNat % 10 ∧
      ∀ a, a < s.effective 0 ∨ s.effective 3 ≤ a → t.readByte a = s.readByte a

/-- LD [I], Vx answers a state whose byte at I + k is V[k] for every k up to x; every other byte of memory, every
register, I and everything else but PC is unchanged. That I is unchanged is decision D10, the check decision D24.
(43_index_memory.md section 2 (Fx55), 92_eei_decisions.md D10, D24) -/
def Obligations.RegistersStoredToMemory : Prop :=
  ∀ (x : Reg) (s : State), s.i.toNat + x.toNat ≤ 4095 →
    ∃ t, exec (.ldMemVx x) s = .next t ∧ t.pc = s.pc + 2 ∧ Frame [] [.mem] s t ∧
      (∀ r : Reg, r.toNat ≤ x.toNat → t.readByte (s.effective r.toNat) = s.readV r) ∧
      ∀ a, a < s.effective 0 ∨ s.effective (x.toNat + 1) ≤ a → t.readByte a = s.readByte a

/-- LD Vx, [I] answers a state with V[k] = MEM[I + k] for every k up to x; every register above x, memory, I and
everything else but PC is unchanged. That I is unchanged is decision D10, the check decision D24.
(43_index_memory.md section 2 (Fx65), 92_eei_decisions.md D10, D24) -/
def Obligations.RegistersLoadedFromMemory : Prop :=
  ∀ (x : Reg) (s : State), s.i.toNat + x.toNat ≤ 4095 →
    ∃ t, exec (.ldVxMem x) s = .next t ∧ t.pc = s.pc + 2 ∧
      (∀ r : Reg, r.toNat ≤ x.toNat → t.readV r = s.readByte (s.effective r.toNat)) ∧ Frame (regsUpTo x) [] s t

/-- When I + 2 (Fx33), I + x (Fx55, Fx65) or, with n above 0, I + n - 1 (Dxyn) is above 4095, computed without wrap,
the instruction takes the fault's entry: ADDRESS, FAULT_PC = PC, FAULT_ADDR = max(I, 4096), and no register, byte
or pixel changes. Decisions D21, D22, D24. (60_exceptions.md sections 1 and 2 (raisers of AddressFault, fault
entry), 20_memory.md section 5, 92_eei_decisions.md D21, D22, D24) -/
def Obligations.TransfersOutOfRangeFault : Prop :=
  ∀ (x y : Reg) (n : Imm4) (s : State),
    (4095 < s.i.toNat + 2 → ∃ t, exec (.ldBVx x) s = .next t ∧ FaultTaken s t .address (max s.i.toNat 4096)) ∧
    (4095 < s.i.toNat + x.toNat →
      (∃ t, exec (.ldMemVx x) s = .next t ∧ FaultTaken s t .address (max s.i.toNat 4096)) ∧
      (∃ t, exec (.ldVxMem x) s = .next t ∧ FaultTaken s t .address (max s.i.toNat 4096))) ∧
    (0 < n.toNat → 4095 < s.i.toNat + n.toNat - 1 →
      ∃ t, exec (.drw x y n) s = .next t ∧ FaultTaken s t .address (max s.i.toNat 4096))

/-! ### Display -/

/-- CLS answers a state in which FB[r][c] is 0 for every row and column and PC is PC + 2; VF, memory and everything
else is unchanged. (R280) -/
def Obligations.ClearScreenUnlightsEveryPixel : Prop :=
  ∀ s : State, ∃ t, exec .cls s = .next t ∧ (∀ r c, pixel t.fb r c = false) ∧ t.pc = s.pc + 2 ∧ Frame [] [.fb] s t

/-- When n is 0 or I + n - 1 is at most 4095, DRW answers a state in which a pixel is flipped exactly if the sprite has
a 1 on it (columns wrapping modulo 64, rows clipped or wrapped by DRAW_VERTICAL, bit 7 leftmost) and VF is 1
exactly if a covered pixel was lit; PC + 2, no byte of memory and nothing else changes. With n = 0 nothing is drawn
and VF is 0. Decisions D17 to D19, general knowledge G8. (44_display.md (sprite geometry, DRW), 92_eei_decisions.md
D17, D18, D19, 93_implementation_defined.md G8) -/
def Obligations.DrawXorsTheSpriteAndReportsCollision : Prop :=
  ∀ (x y : Reg) (n : Imm4) (s : State), (n.toNat = 0 ∨ s.i.toNat + n.toNat - 1 ≤ 4095) →
    ∃ t, exec (.drw x y n) s = .next t ∧ t.pc = s.pc + 2 ∧ Frame [regF] [.fb] s t ∧
      (∀ r c, SpriteCovers s x y n r c → pixel t.fb r c = !pixel s.fb r c) ∧
      (∀ r c, ¬SpriteCovers s x y n r c → pixel t.fb r c = pixel s.fb r c) ∧
      ((∃ r c, SpriteCovers s x y n r c ∧ pixel s.fb r c = true) → t.readV regF = 1) ∧
      ((¬∃ r c, SpriteCovers s x y n r c ∧ pixel s.fb r c = true) → t.readV regF = 0)

/-- For two draws of n rows, the second from the state the first left with registers that hold the first's coordinates
and no range fault, every pixel is as before the first, and the second leaves VF = 1 exactly if a pixel it covers
was lit just before it; if the first found every covered pixel unlit, exactly if the sprite covers a pixel at all.
Marked derived in the spec. (44_display.md (double-draw law; marked derived)) -/
def Obligations.DrawTwiceRestoresTheScreen : Prop :=
  ∀ (x y x' y' : Reg) (n : Imm4) (s t u : State),
    s.runState = .running → exec (.drw x y n) s = .next t → t.runState = .running →
    t.readV x' = s.readV x → t.readV y' = s.readV y → exec (.drw x' y' n) t = .next u →
    (∀ r c, pixel u.fb r c = pixel s.fb r c) ∧
    (u.readV regF = 1 ↔ ∃ r c, SpriteCovers t x' y' n r c ∧ pixel t.fb r c = true) ∧
    ((∀ r c, SpriteCovers s x y n r c → pixel s.fb r c = false) →
      (u.readV regF = 1 ↔ ∃ r c, SpriteCovers s x y n r c))

/-! ### Keypad and timers -/

/-- LD Vx, DT answers a state with V[x] = DT as the previous cycle left it, LD DT, Vx one with DT = V[x], LD ST, Vx one
with ST = V[x]; PC + 2, no flag and nothing else changes. The tick of the same cycle comes after (DelayTimerTick,
SoundTimerTickAndBeep). (R303, R305, R306) -/
def Obligations.TimerInstructionsMoveTheTimers : Prop :=
  ∀ (x : Reg) (s : State),
    (∃ t, exec (.ldVxDt x) s = .next t ∧ t.readV x = s.dt ∧ t.pc = s.pc + 2 ∧ Frame [x] [] s t) ∧
    (∃ t, exec (.ldDtVx x) s = .next t ∧ t.dt = s.readV x ∧ t.pc = s.pc + 2 ∧ Frame [] [.dt] s t) ∧
    (∃ t, exec (.ldStVx x) s = .next t ∧ t.st = s.readV x ∧ t.pc = s.pc + 2 ∧ Frame [] [.st] s t)

/-- When key k qualifies (pressed in LEVEL mode; in EDGE mode pressed now, not in the last sample, with a wait in
progress) and no lower key does, LD Vx, K answers a state with V[x] = k, WAIT = 0, PC + 2; KPREV and everything
else is unchanged. Decision D14. (45_keypad_timers.md section 2 (Fx0A), 92_eei_decisions.md D14) -/
def Obligations.KeyWaitCompletesWithTheLowestKey : Prop :=
  ∀ (x : Reg) (s : State) (k : Nat), KeyQualifies s k → (∀ j, j < k → ¬KeyQualifies s j) →
    ∃ t, exec (.ldVxK x) s = .next t ∧ (t.readV x).toNat = k ∧ t.wait = false ∧ t.kprev = s.kprev ∧
      t.pc = s.pc + 2 ∧ Frame [x] [.keyWait] s t

/-- When no key qualifies, the first cycle of an EDGE wait among these cases, LD Vx, K answers a state with WAIT = 1,
PC unchanged and, in EDGE mode, KPREV = KEY; nothing else changes. Decision D14; that LEVEL mode leaves KPREV as it
was is the model's reading (log entry 9). (45_keypad_timers.md section 2 (Fx0A), 92_eei_decisions.md D14) -/
def Obligations.KeyWaitWithoutAKeyStaysWaiting : Prop :=
  ∀ (x : Reg) (s : State), (∀ k, ¬KeyQualifies s k) →
    ∃ t, exec (.ldVxK x) s = .next t ∧ t.wait = true ∧ t.pc = s.pc ∧
      (s.cfg.keyWaitTrigger = .edge → t.kprev = s.input.key) ∧
      (s.cfg.keyWaitTrigger = .level → t.kprev = s.kprev) ∧ Frame [] [.keyWait] s t

/-! ### Whole-machine rules -/

/-- The step never stops the model: an unknown word is a no-op, a fault is an entry and a halted core stays halted
(decisions D21, D23). No step changes a configuration parameter: DECODE_MODE is fixed, not a run-time mode. Each
drops the oldest supplied input, counts the cycle and leaves outputs (the model's own fields, log entries 1 to 3,
whatever their values). (60_exceptions.md sections 2, 5 and 6, 30_encoding.md sections 4 and 5, 00_scope.md section
4, 92_eei_decisions.md D21, D23) -/
def Obligations.EveryStepAnswersANextState : Prop :=
  ∀ s : State, ∃ u, step s = .next u ∧ u.cfg = s.cfg ∧ u.inputs = s.inputs.tail ∧ u.cycleNo = s.cycleNo + 1 ∧
    u.out.isSome = true

/-- For a running core, exec of an instruction leaves it halted exactly if it is RET with SP = 0, CALL with SP = 16,
DRW with n above 0 and I + n - 1 above 4095, Fx33 with I + 2 above 4095, or Fx55 or Fx65 with I + x above 4095.
RUN_STATE is the spec's decision D23. (60_exceptions.md section 1 (raisers), 92_eei_decisions.md D22, D23) -/
def Obligations.OnlyTheseInstructionsFault : Prop :=
  ∀ (i : Instr) (s t : State), s.runState = .running → exec i s = .next t →
    (t.runState = .halted ↔
      (i = .ret ∧ s.sp.val = 0) ∨
      (∃ nnn, i = .call nnn ∧ s.sp.val = 16) ∨
      (∃ x y n, i = .drw x y n ∧ 0 < n.toNat ∧ 4095 < s.i.toNat + n.toNat - 1) ∨
      (∃ x, i = .ldBVx x ∧ 4095 < s.i.toNat + 2) ∨
      (∃ x, (i = .ldMemVx x ∨ i = .ldVxMem x) ∧ 4095 < s.i.toNat + x.toNat))

/-- If exec of any instruction leaves a running core halted, every register, I, PC, the stack, the timers, the
framebuffer, every byte of memory, WAIT and KPREV are as before, and FAULT_PC is the PC of that instruction.
Decisions D21, D31. (60_exceptions.md section 2 (faults are precise), 92_eei_decisions.md D21, D31) -/
def Obligations.FaultsArePrecise : Prop :=
  ∀ (i : Instr) (s t : State), s.runState = .running → exec i s = .next t → t.runState = .halted →
    FaultTaken s t t.faultKind t.faultAddr ∧ t.faultKind ≠ .none ∧ (t.faultKind ≠ .address → t.faultAddr = 0)

/-- For every run of n steps from a halted state, every element of the spec's state is at each step as at the start:
the record keeps the first fault. Decision D23. (60_exceptions.md section 2 (a halted core is absorbing),
92_eei_decisions.md D23) -/
def Obligations.HaltedIsAbsorbing : Prop :=
  ∀ (ss : Nat → State) (n : Nat), IsRun ss n → (ss 0).runState = .halted → ∀ k, k ≤ n → SameCore (ss 0) (ss k)

/-- If a step changes SP or a stack entry, the instruction it decoded was CALL or RET; if it changes a pixel, it was
CLS or DRW. So no load or store, tick, fault, unknown word or halted cycle reaches them. (20_memory.md section 1
(storages outside memory), 10_state.md sections 5 and 7) -/
def Obligations.StackAndScreenWriters : Prop :=
  ∀ s u : State, step s = .next u →
    (u.sp ≠ s.sp ∨ u.stack ≠ s.stack →
      s.nextDecoded = some (.instr .ret) ∨ ∃ nnn, s.nextDecoded = some (.instr (.call nnn))) ∧
    (u.fb ≠ s.fb →
      s.nextDecoded = some (.instr .cls) ∨ ∃ x y n, s.nextDecoded = some (.instr (.drw x y n)))

/-- If a step changes a byte of memory, it decoded Fx33 or Fx55; if it changes I, it decoded Annn, Fx1E or Fx29; if it
changes WAIT or KPREV, it decoded Fx0A. The registers WAIT and KPREV are the spec's decision D14. (20_memory.md
section 6 (accesses of each instruction), 10_state.md sections 4, 9 and 10) -/
def Obligations.MemoryIndexAndWaitWriters : Prop :=
  ∀ s u : State, step s = .next u →
    ((∃ a, u.readByte a ≠ s.readByte a) →
      ∃ x, s.nextDecoded = some (.instr (.ldBVx x)) ∨ s.nextDecoded = some (.instr (.ldMemVx x))) ∧
    (u.i ≠ s.i →
      (∃ nnn, s.nextDecoded = some (.instr (.ldI nnn))) ∨
      ∃ x, s.nextDecoded = some (.instr (.addIVx x)) ∨ s.nextDecoded = some (.instr (.ldFVx x))) ∧
    (u.wait ≠ s.wait ∨ u.kprev ≠ s.kprev → ∃ x, s.nextDecoded = some (.instr (.ldVxK x)))

/-- If exec of an instruction changes VF, it is 8xy4 to 8xy7, 8xyE or Dxyn, or an instruction whose destination
register is VF: 6Fkk, 7Fkk, 8Fy0 to 8Fy3, CFkk, FF07, FF0A or FF65. (10_state.md section 2 (flags)) -/
def Obligations.FlagRegisterWriters : Prop :=
  ∀ (i : Instr) (s t : State), exec i s = .next t → t.readV regF ≠ s.readV regF →
    (∃ x y, i = .addReg x y ∨ i = .sub x y ∨ i = .shr x y ∨ i = .subn x y ∨ i = .shl x y) ∨
    (∃ x y n, i = .drw x y n) ∨
    (∃ kk, i = .ldImm regF kk ∨ i = .addImm regF kk ∨ i = .rnd regF kk) ∨
    (∃ y, i = .ldReg regF y ∨ i = .orReg regF y ∨ i = .andReg regF y ∨ i = .xorReg regF y) ∨
    i = .ldVxDt regF ∨ i = .ldVxK regF ∨ i = .ldVxMem regF

/-- If two states differ only in their supplied inputs, exec of an instruction leaves states that differ only in them,
provided the KEY input agrees if the instruction is Ex9E, ExA1 or Fx0A and the RND input agrees if it is Cxkk. That
they are inputs is the spec's decisions D2, D20. (10_state.md section 11 (inputs KEY and RND), 92_eei_decisions.md
D2, D20) -/
def Obligations.InputsReadOnlyWhereTheSpecSays : Prop :=
  ∀ (i : Instr) (s t : State) (l : List CycleInput),
    (readsKey i = true → ({ s with inputs := l } : State).input.key = s.input.key) →
    (readsRnd i = true → ({ s with inputs := l } : State).input.rnd = s.input.rnd) →
    exec i s = .next t → exec i { s with inputs := l } = .next { t with inputs := l }

/-- From every state whose memory is canonical, a step leaves a canonical memory; so equal memories are equal data and
no address above 4095 ever holds a byte. The form is the model's (log entry 7). (20_memory.md sections 1 and 6,
10_state.md section 8) -/
def Obligations.StepKeepsMemoryCanonical : Prop :=
  ∀ s u : State, s.MemoryCanonical → step s = .next u → u.MemoryCanonical

/-- From every state in which a running core has no fault recorded and a halted one has a kind, SP 16 or 0 for a stack
fault, and an address from 4096 to below 2^17 exactly for an addressing fault, a step leads to such a state.
Decisions D22, D23. (10_state.md section 9 (fault record), 60_exceptions.md section 2, 92_eei_decisions.md D22,
D23) -/
def Obligations.StepKeepsFaultRecordConsistent : Prop :=
  ∀ s u : State, s.FaultRecordConsistent → step s = .next u → u.FaultRecordConsistent

/-- From every state in which WAIT set means that the next word decodes to Fx0A, a step leads to such a state: WAIT
stands for a key-wait in progress. Decision D14. (10_state.md section 9 (WAIT), 45_keypad_timers.md section 2
(Fx0A), 92_eei_decisions.md D14) -/
def Obligations.StepKeepsWaitAtAKeyWait : Prop :=
  ∀ s u : State, s.WaitAtKeyWait → step s = .next u → u.WaitAtKeyWait

/-- In the reset state and after RESET the memory is canonical, the fault record agrees with RUN_STATE, and WAIT is
clear, so that it is set only at an Fx0A. The reset is the spec's decision D27; the canonical form is the model's
(log entry 7). (10_state.md section 10 (the full reset state), 92_eei_decisions.md D27) -/
def Obligations.InvariantsHoldAfterReset : Prop :=
  ∀ t : State, (t = State.reset ∨ ∃ s : State, t = s.hostReset) → t.MemoryCanonical ∧ t.FaultRecordConsistent ∧ t.wait = false ∧ t.WaitAtKeyWait
end

