-- ==== Sys2Proof/Laws/Decode.lean ====
section
/-! SUPPORT. The fields of a word built from a format (30_encoding.md R111, R112), and its fixed bits under a row's mask. -/

namespace Sys2Proof

/-- Two words are equal when their four nibbles are. -/
theorem word_ext {v w : Word} (hh : fieldH v = fieldH w) (hx : fieldX v = fieldX w) (hy : fieldY v = fieldY w)
    (hn : fieldN v = fieldN w) : v = w := by
  simp only [fieldH, fieldX, fieldY, fieldN, ← BitVec.toNat_inj, BitVec.extractLsb'_toNat,
    Nat.shiftRight_eq_div_pow] at *
  omega

/-! ### The bits of a word built from a format -/

theorem getLsbD_wordXYN (h x y n : BitVec 4) (k : Nat) : (wordXYN h x y n).getLsbD k =
    if k < 4 then n.getLsbD k else if k < 8 then y.getLsbD (k - 4) else if k < 12 then x.getLsbD (k - 8)
    else h.getLsbD (k - 12) := by
  refine (BitVec.getLsbD_append (x := h ++ x ++ y) (y := n)).trans ?_
  simp only [BitVec.getLsbD_append, Nat.sub_sub, show k - 4 < 4 ↔ k < 8 by omega, show k - (4 + 4) < 4 ↔ k < 12 by omega]

theorem getLsbD_wordXKK (h x : BitVec 4) (kk : Imm8) (k : Nat) : (wordXKK h x kk).getLsbD k =
    if k < 8 then kk.getLsbD k else if k < 12 then x.getLsbD (k - 8) else h.getLsbD (k - 12) := by
  refine (BitVec.getLsbD_append (x := h ++ x) (y := kk)).trans ?_
  simp only [BitVec.getLsbD_append, Nat.sub_sub, show k - 8 < 4 ↔ k < 12 by omega]

theorem getLsbD_wordNNN (h : BitVec 4) (nnn : Imm12) (k : Nat) : (wordNNN h nnn).getLsbD k =
    if k < 12 then nnn.getLsbD k else h.getLsbD (k - 12) :=
  BitVec.getLsbD_append (x := h) (y := nnn)

theorem getLsbD_wordOfBytes (hi lo : Byte) (k : Nat) : (wordOfBytes hi lo).getLsbD k =
    if k < 8 then lo.getLsbD k else hi.getLsbD (k - 8) :=
  BitVec.getLsbD_append (x := hi) (y := lo)

/-! ### The fields of a word built from a format -/

@[simp] theorem fieldH_wordXYN (h x y n : BitVec 4) : fieldH (wordXYN h x y n) = h := by
  apply BitVec.eq_of_getLsbD_eq; intro i hi
  interval_cases i <;> simp [fieldH, getLsbD_wordXYN, -BitVec.getLsbD_eq_getElem]

@[simp] theorem fieldX_wordXYN (h x y n : BitVec 4) : fieldX (wordXYN h x y n) = x := by
  apply BitVec.eq_of_getLsbD_eq; intro i hi
  interval_cases i <;> simp [fieldX, getLsbD_wordXYN, -BitVec.getLsbD_eq_getElem]

@[simp] theorem fieldY_wordXYN (h x y n : BitVec 4) : fieldY (wordXYN h x y n) = y := by
  apply BitVec.eq_of_getLsbD_eq; intro i hi
  interval_cases i <;> simp [fieldY, getLsbD_wordXYN, -BitVec.getLsbD_eq_getElem]

@[simp] theorem fieldN_wordXYN (h x y n : BitVec 4) : fieldN (wordXYN h x y n) = n := by
  apply BitVec.eq_of_getLsbD_eq; intro i hi
  interval_cases i <;> simp [fieldN, getLsbD_wordXYN, -BitVec.getLsbD_eq_getElem]

@[simp] theorem fieldH_wordXKK (h x : BitVec 4) (kk : Imm8) : fieldH (wordXKK h x kk) = h := by
  apply BitVec.eq_of_getLsbD_eq; intro i hi
  interval_cases i <;> simp [fieldH, getLsbD_wordXKK, -BitVec.getLsbD_eq_getElem]

@[simp] theorem fieldX_wordXKK (h x : BitVec 4) (kk : Imm8) : fieldX (wordXKK h x kk) = x := by
  apply BitVec.eq_of_getLsbD_eq; intro i hi
  interval_cases i <;> simp [fieldX, getLsbD_wordXKK, -BitVec.getLsbD_eq_getElem]

@[simp] theorem fieldKK_wordXKK (h x : BitVec 4) (kk : Imm8) : fieldKK (wordXKK h x kk) = kk := by
  apply BitVec.eq_of_getLsbD_eq; intro i hi
  interval_cases i <;> simp [fieldKK, getLsbD_wordXKK, -BitVec.getLsbD_eq_getElem]

@[simp] theorem fieldH_wordNNN (h : BitVec 4) (nnn : Imm12) : fieldH (wordNNN h nnn) = h := by
  apply BitVec.eq_of_getLsbD_eq; intro i hi
  interval_cases i <;> simp [fieldH, getLsbD_wordNNN, -BitVec.getLsbD_eq_getElem]

@[simp] theorem fieldNNN_wordNNN (h : BitVec 4) (nnn : Imm12) : fieldNNN (wordNNN h nnn) = nnn := by
  apply BitVec.eq_of_getLsbD_eq; intro i hi
  interval_cases i <;> simp [fieldNNN, getLsbD_wordNNN, -BitVec.getLsbD_eq_getElem]

/-! ### The bytes of a word -/

/-- The value of a big-endian word. -/
theorem wordOfBytes_toNat (hi lo : Byte) : (wordOfBytes hi lo).toNat = 256 * hi.toNat + lo.toNat :=
  calc (wordOfBytes hi lo).toNat = hi.toNat <<< 8 ||| lo.toNat := BitVec.toNat_append hi lo
    _ = 256 * hi.toNat + lo.toNat := by
      rw [← Nat.shiftLeft_add_eq_or_of_lt lo.isLt, Nat.shiftLeft_eq, Nat.mul_comm]

@[simp] theorem wordOfBytes_bytesOfWord (op : Word) :
    wordOfBytes (bytesOfWord op).1 (bytesOfWord op).2 = op := by
  apply BitVec.eq_of_getLsbD_eq; intro i hi
  interval_cases i <;> simp [bytesOfWord, getLsbD_wordOfBytes, -BitVec.getLsbD_eq_getElem]

/-! ### The fixed bits of a word under the masks of the table -/

theorem wordNNN_mask (h : BitVec 4) (nnn : Imm12) : wordNNN h nnn &&& 0xF000 = wordNNN h 0 := by
  apply BitVec.eq_of_getLsbD_eq; intro i hi
  interval_cases i <;> simp [getLsbD_wordNNN, -BitVec.getLsbD_eq_getElem]

theorem wordXKK_mask (h x : BitVec 4) (kk : Imm8) : wordXKK h x kk &&& 0xF000 = wordXKK h 0 0 := by
  apply BitVec.eq_of_getLsbD_eq; intro i hi
  interval_cases i <;> simp [getLsbD_wordXKK, -BitVec.getLsbD_eq_getElem]

theorem wordXKK_mask_sub (h x : BitVec 4) (kk : Imm8) : wordXKK h x kk &&& 0xF0FF = wordXKK h 0 kk := by
  apply BitVec.eq_of_getLsbD_eq; intro i hi
  interval_cases i <;> simp [getLsbD_wordXKK, -BitVec.getLsbD_eq_getElem]

theorem wordXYN_mask (h x y n : BitVec 4) : wordXYN h x y n &&& 0xF000 = wordXYN h 0 0 0 := by
  apply BitVec.eq_of_getLsbD_eq; intro i hi
  interval_cases i <;> simp [getLsbD_wordXYN, -BitVec.getLsbD_eq_getElem]

theorem wordXYN_mask_sub (h x y n : BitVec 4) : wordXYN h x y n &&& 0xF00F = wordXYN h 0 0 n := by
  apply BitVec.eq_of_getLsbD_eq; intro i hi
  interval_cases i <;> simp [getLsbD_wordXYN, -BitVec.getLsbD_eq_getElem]

/-! ### A word is its fields -/

theorem wordXYN_fields (op : Word) : wordXYN (fieldH op) (fieldX op) (fieldY op) (fieldN op) = op :=
  word_ext (by simp) (by simp) (by simp) (by simp)

theorem wordXKK_fields (op : Word) : wordXKK (fieldH op) (fieldX op) (fieldKK op) = op := by
  apply BitVec.eq_of_getLsbD_eq; intro i hi
  interval_cases i <;> simp [fieldH, fieldX, fieldKK, getLsbD_wordXKK, -BitVec.getLsbD_eq_getElem]

theorem wordNNN_fields (op : Word) : wordNNN (fieldH op) (fieldNNN op) = op := by
  apply BitVec.eq_of_getLsbD_eq; intro i hi
  interval_cases i <;> simp [fieldH, fieldNNN, getLsbD_wordNNN, -BitVec.getLsbD_eq_getElem]

end Sys2Proof
end

