-- ==== Sys2Proof/Laws/Display.lean ====
section
/-! SUPPORT. What flipping a pixel, a sprite row and a whole sprite do to each pixel and to the collision. -/

namespace Sys2Proof.Machine

open Sys2Proof

@[simp] theorem pixel_clearFramebuffer (r : Fin 32) (c : Fin 64) : pixel clearFramebuffer r c = false := by
  simp [pixel, clearFramebuffer]

/-- A flip changes one pixel. -/
theorem pixel_flipPixel (f : Framebuffer) (r r' : Fin 32) (c c' : Fin 64) :
    pixel (flipPixel f r c) r' c' = if r' = r ∧ c' = c then !pixel f r' c' else pixel f r' c' := by
  simp only [pixel, flipPixel, Fin.getElem_fin, Vector.getElem_set, Fin.val_inj]
  by_cases hr : r = r'
  · subst hr
    by_cases hc : c = c'
    · subst hc; simp
    · simp [Ne.symm hc]
      rw [Vector.getElem_set_ne]
      exact fun h => hc (Fin.ext h)
  · simp [hr, Ne.symm hr]

@[simp] theorem Draw.flip_fb (d : Draw) (r : Fin 32) (c : Fin 64) : (d.flip r c).fb = flipPixel d.fb r c := rfl

@[simp] theorem Draw.flip_hit (d : Draw) (r : Fin 32) (c : Fin 64) : (d.flip r c).hit = (d.hit || pixel d.fb r c) := rfl

@[simp] theorem spriteColumn_val (x0 : Byte) (c : Nat) : (spriteColumn x0 c).val = (x0.toNat + c) % 64 := rfl

/-- Where a sprite row lands, and that it lands nowhere when it is clipped. -/
theorem spriteRow_eq_some {vertical : DrawVertical} {y0 : Byte} {k : Nat} {r : Fin 32} :
    spriteRow vertical y0 k = some r ↔
      match vertical with
      | .clip => y0.toNat % 32 + k = r.val
      | .wrap => (y0.toNat + k) % 32 = r.val := by
  cases vertical
  · simp only [spriteRow]
    split
    · simp [Fin.ext_iff]
    · simp; omega
  · simp [spriteRow, Fin.ext_iff]

/-- Framebuffers that agree at every pixel are equal. -/
theorem framebuffer_ext {f g : Framebuffer} (h : ∀ r c, pixel f r c = pixel g r c) : f = g :=
  Vector.ext fun r hr => Vector.ext fun c hc => h ⟨r, hr⟩ ⟨c, hc⟩

/-- A sprite row flips, in its row, exactly the columns of its 1 bits, each once. -/
theorem pixel_drawRow (py : Fin 32) (x0 row : Byte) (n : Nat) (d : Draw) (hn : n ≤ 8) (r : Fin 32) (c : Fin 64) :
    pixel (drawRow py x0 row n d).fb r c =
      if r = py ∧ ∃ j < n, row.getLsbD (7 - j) = true ∧ (x0.toNat + j) % 64 = c.val then !pixel d.fb r c
      else pixel d.fb r c := by
  induction n with
  | zero => simp [drawRow]
  | succ n ih =>
    have ih := ih (by omega)
    have key : (∃ j < n + 1, row.getLsbD (7 - j) = true ∧ (x0.toNat + j) % 64 = c.val) ↔
        (∃ j < n, row.getLsbD (7 - j) = true ∧ (x0.toNat + j) % 64 = c.val) ∨
          (row.getLsbD (7 - n) = true ∧ (x0.toNat + n) % 64 = c.val) := by
      constructor
      · rintro ⟨j, hj, h⟩
        rcases Nat.lt_succ_iff_lt_or_eq.1 hj with hj | rfl
        · exact .inl ⟨j, hj, h⟩
        · exact .inr h
      · rintro (⟨j, hj, h⟩ | h)
        · exact ⟨j, by omega, h⟩
        · exact ⟨n, by omega, h⟩
    simp only [key, drawRow]
    by_cases hb : row.getLsbD (7 - n) = true
    · rw [if_pos hb, Draw.flip_fb, pixel_flipPixel, ih]
      have hc : c = spriteColumn x0 n ↔ (x0.toNat + n) % 64 = c.val := by
        rw [← spriteColumn_val, Fin.ext_iff, eq_comm]
      simp only [hc]
      by_cases hr : r = py
      · by_cases hh : (x0.toNat + n) % 64 = c.val
        · have hno : ¬∃ j < n, row.getLsbD (7 - j) = true ∧ (x0.toNat + j) % 64 = c.val := by
            rintro ⟨j, hj, -, h⟩; omega
          simp [hr, hh, hb, hno]
        · simp [hr, hh]
      · simp [hr]
    · rw [if_neg hb, ih]; simp [hb]

/-- A sprite row collides exactly if one of its 1 bits falls on a lit pixel. -/
theorem drawRow_hit (py : Fin 32) (x0 row : Byte) (n : Nat) (d : Draw) (hn : n ≤ 8) :
    (drawRow py x0 row n d).hit = true ↔ d.hit = true ∨
      ∃ j < n, row.getLsbD (7 - j) = true ∧ pixel d.fb py (spriteColumn x0 j) = true := by
  induction n with
  | zero => simp [drawRow]
  | succ n ih =>
    have ih := ih (by omega)
    have key : (∃ j < n + 1, row.getLsbD (7 - j) = true ∧ pixel d.fb py (spriteColumn x0 j) = true) ↔
        (∃ j < n, row.getLsbD (7 - j) = true ∧ pixel d.fb py (spriteColumn x0 j) = true) ∨
          (row.getLsbD (7 - n) = true ∧ pixel d.fb py (spriteColumn x0 n) = true) := by
      constructor
      · rintro ⟨j, hj, h⟩
        rcases Nat.lt_succ_iff_lt_or_eq.1 hj with hj | rfl
        · exact .inl ⟨j, hj, h⟩
        · exact .inr h
      · rintro (⟨j, hj, h⟩ | h)
        · exact ⟨j, by omega, h⟩
        · exact ⟨n, by omega, h⟩
    simp only [key, drawRow]
    by_cases hb : row.getLsbD (7 - n) = true
    · rw [if_pos hb, Draw.flip_hit, Bool.or_eq_true, ih, pixel_drawRow py x0 row n d (by omega), if_neg, or_assoc]
      · simp only [hb, true_and]
      · rintro ⟨-, j, hj, -, h⟩
        rw [spriteColumn_val] at h; omega
    · rw [if_neg hb, ih]; simp [hb]

/-- The first `n` rows of the sprite at `a` have a 1 that lands on cell `(r, c)`. -/
def SpriteHits (s : State) (a : Nat) (x0 y0 : Byte) (n : Nat) (r : Fin 32) (c : Fin 64) : Prop :=
  ∃ k < n, spriteRow s.cfg.drawVertical y0 k = some r ∧
    ∃ j < 8, (s.readByte (a + k)).getLsbD (7 - j) = true ∧ (x0.toNat + j) % 64 = c.val

/-- One more row. -/
theorem SpriteHits.succ {s : State} {a : Nat} {x0 y0 : Byte} {n : Nat} {r : Fin 32} {c : Fin 64} :
    SpriteHits s a x0 y0 (n + 1) r c ↔ SpriteHits s a x0 y0 n r c ∨
      (spriteRow s.cfg.drawVertical y0 n = some r ∧
        ∃ j < 8, (s.readByte (a + n)).getLsbD (7 - j) = true ∧ (x0.toNat + j) % 64 = c.val) := by
  constructor
  · rintro ⟨k, hk, h⟩
    rcases Nat.lt_succ_iff_lt_or_eq.1 hk with hk | rfl
    · exact .inl ⟨k, hk, h⟩
    · exact .inr h
  · rintro (⟨k, hk, h⟩ | h)
    · exact ⟨k, by omega, h⟩
    · exact ⟨n, by omega, h⟩

/-- Two rows of a sprite never land on one row of the screen. -/
theorem spriteRow_inj {v : DrawVertical} {y0 : Byte} {j k : Nat} {r : Fin 32} (hj : j < 32) (hk : k < 32)
    (h : spriteRow v y0 j = some r) (h' : spriteRow v y0 k = some r) : j = k := by
  rw [spriteRow_eq_some] at h h'
  cases v <;> simp only at h h' <;> omega

/-- A sprite flips exactly the pixels it hits, each once. -/
theorem pixel_drawRows (s : State) (a : Nat) (x0 y0 : Byte) (n : Nat) (d : Draw) (hn : n ≤ 32) (r : Fin 32) (c : Fin 64) :
    (SpriteHits s a x0 y0 n r c → pixel (drawRows s a x0 y0 n d).fb r c = !pixel d.fb r c) ∧
    (¬SpriteHits s a x0 y0 n r c → pixel (drawRows s a x0 y0 n d).fb r c = pixel d.fb r c) := by
  induction n with
  | zero => exact ⟨fun ⟨_, h, _⟩ => absurd h (Nat.not_lt_zero _), fun _ => rfl⟩
  | succ n ih =>
    obtain ⟨ih1, ih2⟩ := ih (by omega)
    rw [SpriteHits.succ]
    simp only [drawRows]
    cases hs : spriteRow s.cfg.drawVertical y0 n with
    | none => simpa using ⟨ih1, ih2⟩
    | some py =>
      simp only [pixel_drawRow _ _ _ _ _ (Nat.le_refl 8), Option.some.injEq, eq_comm (a := py)]
      by_cases hr : r = py
      · subst hr
        have hno : ¬SpriteHits s a x0 y0 n r c := by
          rintro ⟨k, hk, hkr, -⟩
          have := spriteRow_inj (by omega) (by omega) hkr hs; omega
        simp [ih2 hno, hno]
      · simp [hr]; exact ⟨ih1, ih2⟩

/-- A sprite collides exactly if it hits a lit pixel. -/
theorem drawRows_hit (s : State) (a : Nat) (x0 y0 : Byte) (n : Nat) (d : Draw) (hn : n ≤ 32) :
    (drawRows s a x0 y0 n d).hit = true ↔ d.hit = true ∨ ∃ r c, SpriteHits s a x0 y0 n r c ∧ pixel d.fb r c = true := by
  induction n with
  | zero =>
    simp only [drawRows]
    exact ⟨.inl, fun h => h.elim id fun ⟨_, _, ⟨_, h, _⟩, _⟩ => absurd h (Nat.not_lt_zero _)⟩
  | succ n ih =>
    have ih := ih (by omega)
    simp only [drawRows, SpriteHits.succ]
    cases hs : spriteRow s.cfg.drawVertical y0 n with
    | none => simp [ih]
    | some py =>
      simp only [drawRow_hit _ _ _ _ _ (Nat.le_refl 8), ih, or_assoc, Option.some.injEq]
      refine or_congr_right ?_
      have hno : ∀ c, ¬SpriteHits s a x0 y0 n py c := by
        rintro c ⟨k, hk, hkr, -⟩
        have := spriteRow_inj (by omega) (by omega) hkr hs; omega
      constructor
      · rintro (⟨r, c, h, hp⟩ | ⟨j, hj, hb, hp⟩)
        · exact ⟨r, c, .inl h, hp⟩
        · rw [(pixel_drawRows s a x0 y0 n d (by omega) py _).2 (hno _)] at hp
          exact ⟨py, spriteColumn x0 j, .inr ⟨rfl, j, hj, hb, rfl⟩, hp⟩
      · rintro ⟨r, c, h | ⟨rfl, j, hj, hb, hc⟩, hp⟩
        · exact .inl ⟨r, c, h, hp⟩
        · have : spriteColumn x0 j = c := Fin.ext hc
          refine .inr ⟨j, hj, hb, ?_⟩
          rw [(pixel_drawRows s a x0 y0 n d (by omega) _ _).2 (hno _), this]; exact hp

end Sys2Proof.Machine
end

