-- ==== Sys2Proof/Laws/Memory.lean ====
section
/-! SUPPORT. The laws of memory: a read after a write, the canonical form, and that equal memories are equal lists. -/

namespace Sys2Proof.Machine

open Sys2Proof

/-- Every listed address is above `a`. -/
def Memory.above (a : Nat) (m : Memory) : Prop := ∀ c ∈ m, a < c.1

theorem Memory.wf_nil (base : Nat) : Memory.wf base [] = true := rfl

theorem Memory.wf_cons {base k : Nat} {b : Byte} {m : Memory} :
    Memory.wf base ((k, b) :: m) = true ↔
      k < memorySize ∧ b ≠ resetByte base k ∧ Memory.above k m ∧ Memory.wf base m = true := by
  simp [Memory.wf, Memory.above, and_assoc]

theorem Memory.read_above {base a : Nat} {m : Memory} (h : Memory.above a m) :
    Memory.read base m a = resetByte base a := by
  induction m with
  | nil => rfl
  | cons c m ih =>
    have hc := h c (by simp)
    simp only [Memory.read]
    rw [if_neg (by omega)]
    exact ih fun d hd => h d (by simp [hd])

theorem Memory.read_insert (base a k : Nat) (b : Byte) (m : Memory) :
    Memory.read base (Memory.insert a b m) k = if k = a then b else Memory.read base m k := by
  induction m with
  | nil => rfl
  | cons c m ih =>
    obtain ⟨j, d⟩ := c
    simp only [Memory.insert]
    split
    · rfl
    · split
      · subst_vars; by_cases hk : k = j <;> simp [Memory.read, hk]
      · simp only [Memory.read, ih]
        by_cases hk : k = j
        · subst hk; simp [Ne.symm ‹¬a = k›]
        · simp [hk]

theorem Memory.read_erase (base a k : Nat) (m : Memory) :
    Memory.read base (Memory.erase a m) k = if k = a then resetByte base a else Memory.read base m k := by
  induction m with
  | nil => by_cases hk : k = a <;> simp [Memory.erase, Memory.read, hk]
  | cons c m ih =>
    obtain ⟨j, d⟩ := c
    simp only [Memory.erase]
    split
    · subst_vars
      by_cases hk : k = j
      · subst hk; simpa using ih
      · simp [ih, Memory.read, hk]
    · simp only [Memory.read, ih]
      by_cases hk : k = j
      · subst hk; simp [Ne.symm ‹¬a = k›]
      · simp [hk]

/-- A read after a write: the byte written at the address written, the old byte elsewhere (20_memory.md R92). -/
theorem Memory.read_write {base a k : Nat} {b : Byte} {m : Memory} (ha : a < memorySize) :
    Memory.read base (Memory.write base m a b) k = if k = a then b else Memory.read base m k := by
  simp only [Memory.write, if_pos ha]
  split
  · subst_vars; exact Memory.read_erase base a k m
  · exact Memory.read_insert base a k b m

theorem Memory.above_insert {a k : Nat} {b : Byte} {m : Memory} (hk : k < a) (h : Memory.above k m) :
    Memory.above k (Memory.insert a b m) := by
  induction m with
  | nil => simpa [Memory.insert, Memory.above] using hk
  | cons c m ih =>
    obtain ⟨j, d⟩ := c
    have hm : Memory.above k m := fun d hd => h d (by simp [hd])
    have hj : k < j := h (j, d) (by simp)
    simp only [Memory.insert]
    split
    · intro e he
      simp only [List.mem_cons] at he
      obtain rfl | rfl | he := he
      exacts [hk, hj, hm e he]
    · split
      · intro e he
        simp only [List.mem_cons] at he
        obtain rfl | he := he
        exacts [hk, hm e he]
      · intro e he
        simp only [List.mem_cons] at he
        obtain rfl | he := he
        exacts [hj, ih hm e he]

theorem Memory.above_erase {a k : Nat} {m : Memory} (h : Memory.above k m) : Memory.above k (Memory.erase a m) := by
  induction m with
  | nil => exact h
  | cons c m ih =>
    obtain ⟨j, d⟩ := c
    have hm : Memory.above k m := fun d hd => h d (by simp [hd])
    simp only [Memory.erase]
    split
    · exact ih hm
    · intro e he
      simp only [List.mem_cons] at he
      obtain rfl | he := he
      exacts [h (j, d) (by simp), ih hm e he]

theorem Memory.wf_insert {base a : Nat} {b : Byte} {m : Memory} (h : Memory.wf base m = true)
    (ha : a < memorySize) (hb : b ≠ resetByte base a) : Memory.wf base (Memory.insert a b m) = true := by
  induction m with
  | nil => exact Memory.wf_cons.2 ⟨ha, hb, by simp [Memory.above], rfl⟩
  | cons c m ih =>
    obtain ⟨j, d⟩ := c
    obtain ⟨hj, hd, hab, hm⟩ := Memory.wf_cons.1 h
    simp only [Memory.insert]
    split
    · refine Memory.wf_cons.2 ⟨ha, hb, fun e he => ?_, h⟩
      simp only [List.mem_cons] at he
      obtain rfl | he := he
      · assumption
      · exact lt_trans ‹a < j› (hab e he)
    · split
      · subst_vars; exact Memory.wf_cons.2 ⟨ha, hb, hab, hm⟩
      · exact Memory.wf_cons.2 ⟨hj, hd, Memory.above_insert (by omega) hab, ih hm⟩

theorem Memory.wf_erase {base a : Nat} {m : Memory} (h : Memory.wf base m = true) :
    Memory.wf base (Memory.erase a m) = true := by
  induction m with
  | nil => rfl
  | cons c m ih =>
    obtain ⟨j, d⟩ := c
    obtain ⟨hj, hd, hab, hm⟩ := Memory.wf_cons.1 h
    simp only [Memory.erase]
    split
    · exact ih hm
    · exact Memory.wf_cons.2 ⟨hj, hd, Memory.above_erase hab, ih hm⟩

/-- A write keeps the canonical form. -/
theorem Memory.wf_write {base a : Nat} {b : Byte} {m : Memory} (h : Memory.wf base m = true) :
    Memory.wf base (Memory.write base m a b) = true := by
  unfold Memory.write
  split
  · split
    · exact Memory.wf_erase h
    · exact Memory.wf_insert h ‹_› ‹_›
  · exact h

/-- Canonical memories that read alike are the same list. -/
theorem Memory.wf_ext {base : Nat} {m n : Memory} (hm : Memory.wf base m = true) (hn : Memory.wf base n = true)
    (h : ∀ a, Memory.read base m a = Memory.read base n a) : m = n := by
  induction m generalizing n with
  | nil =>
    cases n with
    | nil => rfl
    | cons c n =>
      obtain ⟨-, hd, -, -⟩ := Memory.wf_cons.1 hn
      have := h c.1
      simp only [Memory.read, if_pos] at this
      exact absurd this.symm hd
  | cons c m ih =>
    obtain ⟨j, d⟩ := c
    obtain ⟨-, hd, hab, hm'⟩ := Memory.wf_cons.1 hm
    cases n with
    | nil =>
      have := h j
      simp only [Memory.read, if_pos] at this
      exact absurd this hd
    | cons e n =>
      obtain ⟨k, e⟩ := e
      obtain ⟨-, he, hab', hn'⟩ := Memory.wf_cons.1 hn
      have hjk : j = k := by
        rcases lt_trichotomy j k with hlt | heq | hgt
        · have := h j
          rw [Memory.read_above (m := (k, e) :: n)] at this
          · simp only [Memory.read, if_pos] at this; exact absurd this hd
          · intro x hx
            simp only [List.mem_cons] at hx
            obtain rfl | hx := hx
            exacts [hlt, lt_trans hlt (hab' x hx)]
        · exact heq
        · have := h k
          rw [Memory.read_above (m := (j, d) :: m)] at this
          · simp only [Memory.read, if_pos] at this; exact absurd this.symm he
          · intro x hx
            simp only [List.mem_cons] at hx
            obtain rfl | hx := hx
            exacts [hgt, lt_trans hgt (hab x hx)]
      subst hjk
      have hde : d = e := by simpa [Memory.read] using h j
      subst hde
      congr 1
      refine ih hm' hn' fun a => ?_
      by_cases ha : a = j
      · subst ha; rw [Memory.read_above hab, Memory.read_above hab']
      · simpa [Memory.read, ha] using h a

end Sys2Proof.Machine
end

