-- ==== Sys2Proof/Laws/State.lean ====
section
/-! SUPPORT. One lemma per field per update of the state, each true by rfl, so that no proof unfolds a record update; and
the read of a register or byte through each update. -/

namespace Sys2Proof.Machine

open Sys2Proof

/-! ### writeV -/

@[simp] theorem State.writeV_v (s : State) (x : Reg) (b : Byte) : (s.writeV x b).v = s.v.set x.toNat b x.isLt := rfl
@[simp] theorem State.writeV_i (s : State) (x : Reg) (b : Byte) : (s.writeV x b).i = s.i := rfl
@[simp] theorem State.writeV_pc (s : State) (x : Reg) (b : Byte) : (s.writeV x b).pc = s.pc := rfl
@[simp] theorem State.writeV_sp (s : State) (x : Reg) (b : Byte) : (s.writeV x b).sp = s.sp := rfl
@[simp] theorem State.writeV_stack (s : State) (x : Reg) (b : Byte) : (s.writeV x b).stack = s.stack := rfl
@[simp] theorem State.writeV_dt (s : State) (x : Reg) (b : Byte) : (s.writeV x b).dt = s.dt := rfl
@[simp] theorem State.writeV_st (s : State) (x : Reg) (b : Byte) : (s.writeV x b).st = s.st := rfl
@[simp] theorem State.writeV_fb (s : State) (x : Reg) (b : Byte) : (s.writeV x b).fb = s.fb := rfl
@[simp] theorem State.writeV_mem (s : State) (x : Reg) (b : Byte) : (s.writeV x b).mem = s.mem := rfl
@[simp] theorem State.writeV_wait (s : State) (x : Reg) (b : Byte) : (s.writeV x b).wait = s.wait := rfl
@[simp] theorem State.writeV_kprev (s : State) (x : Reg) (b : Byte) : (s.writeV x b).kprev = s.kprev := rfl
@[simp] theorem State.writeV_runState (s : State) (x : Reg) (b : Byte) : (s.writeV x b).runState = s.runState := rfl
@[simp] theorem State.writeV_faultKind (s : State) (x : Reg) (b : Byte) : (s.writeV x b).faultKind = s.faultKind := rfl
@[simp] theorem State.writeV_faultPc (s : State) (x : Reg) (b : Byte) : (s.writeV x b).faultPc = s.faultPc := rfl
@[simp] theorem State.writeV_faultAddr (s : State) (x : Reg) (b : Byte) : (s.writeV x b).faultAddr = s.faultAddr := rfl
@[simp] theorem State.writeV_cfg (s : State) (x : Reg) (b : Byte) : (s.writeV x b).cfg = s.cfg := rfl
@[simp] theorem State.writeV_inputs (s : State) (x : Reg) (b : Byte) : (s.writeV x b).inputs = s.inputs := rfl
@[simp] theorem State.writeV_cycleNo (s : State) (x : Reg) (b : Byte) : (s.writeV x b).cycleNo = s.cycleNo := rfl
@[simp] theorem State.writeV_out (s : State) (x : Reg) (b : Byte) : (s.writeV x b).out = s.out := rfl

/-! ### setI -/

@[simp] theorem State.setI_v (s : State) (a : Word) : (s.setI a).v = s.v := rfl
@[simp] theorem State.setI_i (s : State) (a : Word) : (s.setI a).i = a := rfl
@[simp] theorem State.setI_pc (s : State) (a : Word) : (s.setI a).pc = s.pc := rfl
@[simp] theorem State.setI_sp (s : State) (a : Word) : (s.setI a).sp = s.sp := rfl
@[simp] theorem State.setI_stack (s : State) (a : Word) : (s.setI a).stack = s.stack := rfl
@[simp] theorem State.setI_dt (s : State) (a : Word) : (s.setI a).dt = s.dt := rfl
@[simp] theorem State.setI_st (s : State) (a : Word) : (s.setI a).st = s.st := rfl
@[simp] theorem State.setI_fb (s : State) (a : Word) : (s.setI a).fb = s.fb := rfl
@[simp] theorem State.setI_mem (s : State) (a : Word) : (s.setI a).mem = s.mem := rfl
@[simp] theorem State.setI_wait (s : State) (a : Word) : (s.setI a).wait = s.wait := rfl
@[simp] theorem State.setI_kprev (s : State) (a : Word) : (s.setI a).kprev = s.kprev := rfl
@[simp] theorem State.setI_runState (s : State) (a : Word) : (s.setI a).runState = s.runState := rfl
@[simp] theorem State.setI_faultKind (s : State) (a : Word) : (s.setI a).faultKind = s.faultKind := rfl
@[simp] theorem State.setI_faultPc (s : State) (a : Word) : (s.setI a).faultPc = s.faultPc := rfl
@[simp] theorem State.setI_faultAddr (s : State) (a : Word) : (s.setI a).faultAddr = s.faultAddr := rfl
@[simp] theorem State.setI_cfg (s : State) (a : Word) : (s.setI a).cfg = s.cfg := rfl
@[simp] theorem State.setI_inputs (s : State) (a : Word) : (s.setI a).inputs = s.inputs := rfl
@[simp] theorem State.setI_cycleNo (s : State) (a : Word) : (s.setI a).cycleNo = s.cycleNo := rfl
@[simp] theorem State.setI_out (s : State) (a : Word) : (s.setI a).out = s.out := rfl

/-! ### setDt -/

@[simp] theorem State.setDt_v (s : State) (b : Byte) : (s.setDt b).v = s.v := rfl
@[simp] theorem State.setDt_i (s : State) (b : Byte) : (s.setDt b).i = s.i := rfl
@[simp] theorem State.setDt_pc (s : State) (b : Byte) : (s.setDt b).pc = s.pc := rfl
@[simp] theorem State.setDt_sp (s : State) (b : Byte) : (s.setDt b).sp = s.sp := rfl
@[simp] theorem State.setDt_stack (s : State) (b : Byte) : (s.setDt b).stack = s.stack := rfl
@[simp] theorem State.setDt_dt (s : State) (b : Byte) : (s.setDt b).dt = b := rfl
@[simp] theorem State.setDt_st (s : State) (b : Byte) : (s.setDt b).st = s.st := rfl
@[simp] theorem State.setDt_fb (s : State) (b : Byte) : (s.setDt b).fb = s.fb := rfl
@[simp] theorem State.setDt_mem (s : State) (b : Byte) : (s.setDt b).mem = s.mem := rfl
@[simp] theorem State.setDt_wait (s : State) (b : Byte) : (s.setDt b).wait = s.wait := rfl
@[simp] theorem State.setDt_kprev (s : State) (b : Byte) : (s.setDt b).kprev = s.kprev := rfl
@[simp] theorem State.setDt_runState (s : State) (b : Byte) : (s.setDt b).runState = s.runState := rfl
@[simp] theorem State.setDt_faultKind (s : State) (b : Byte) : (s.setDt b).faultKind = s.faultKind := rfl
@[simp] theorem State.setDt_faultPc (s : State) (b : Byte) : (s.setDt b).faultPc = s.faultPc := rfl
@[simp] theorem State.setDt_faultAddr (s : State) (b : Byte) : (s.setDt b).faultAddr = s.faultAddr := rfl
@[simp] theorem State.setDt_cfg (s : State) (b : Byte) : (s.setDt b).cfg = s.cfg := rfl
@[simp] theorem State.setDt_inputs (s : State) (b : Byte) : (s.setDt b).inputs = s.inputs := rfl
@[simp] theorem State.setDt_cycleNo (s : State) (b : Byte) : (s.setDt b).cycleNo = s.cycleNo := rfl
@[simp] theorem State.setDt_out (s : State) (b : Byte) : (s.setDt b).out = s.out := rfl

/-! ### setSt -/

@[simp] theorem State.setSt_v (s : State) (b : Byte) : (s.setSt b).v = s.v := rfl
@[simp] theorem State.setSt_i (s : State) (b : Byte) : (s.setSt b).i = s.i := rfl
@[simp] theorem State.setSt_pc (s : State) (b : Byte) : (s.setSt b).pc = s.pc := rfl
@[simp] theorem State.setSt_sp (s : State) (b : Byte) : (s.setSt b).sp = s.sp := rfl
@[simp] theorem State.setSt_stack (s : State) (b : Byte) : (s.setSt b).stack = s.stack := rfl
@[simp] theorem State.setSt_dt (s : State) (b : Byte) : (s.setSt b).dt = s.dt := rfl
@[simp] theorem State.setSt_st (s : State) (b : Byte) : (s.setSt b).st = b := rfl
@[simp] theorem State.setSt_fb (s : State) (b : Byte) : (s.setSt b).fb = s.fb := rfl
@[simp] theorem State.setSt_mem (s : State) (b : Byte) : (s.setSt b).mem = s.mem := rfl
@[simp] theorem State.setSt_wait (s : State) (b : Byte) : (s.setSt b).wait = s.wait := rfl
@[simp] theorem State.setSt_kprev (s : State) (b : Byte) : (s.setSt b).kprev = s.kprev := rfl
@[simp] theorem State.setSt_runState (s : State) (b : Byte) : (s.setSt b).runState = s.runState := rfl
@[simp] theorem State.setSt_faultKind (s : State) (b : Byte) : (s.setSt b).faultKind = s.faultKind := rfl
@[simp] theorem State.setSt_faultPc (s : State) (b : Byte) : (s.setSt b).faultPc = s.faultPc := rfl
@[simp] theorem State.setSt_faultAddr (s : State) (b : Byte) : (s.setSt b).faultAddr = s.faultAddr := rfl
@[simp] theorem State.setSt_cfg (s : State) (b : Byte) : (s.setSt b).cfg = s.cfg := rfl
@[simp] theorem State.setSt_inputs (s : State) (b : Byte) : (s.setSt b).inputs = s.inputs := rfl
@[simp] theorem State.setSt_cycleNo (s : State) (b : Byte) : (s.setSt b).cycleNo = s.cycleNo := rfl
@[simp] theorem State.setSt_out (s : State) (b : Byte) : (s.setSt b).out = s.out := rfl

/-! ### setFb -/

@[simp] theorem State.setFb_v (s : State) (f : Framebuffer) : (s.setFb f).v = s.v := rfl
@[simp] theorem State.setFb_i (s : State) (f : Framebuffer) : (s.setFb f).i = s.i := rfl
@[simp] theorem State.setFb_pc (s : State) (f : Framebuffer) : (s.setFb f).pc = s.pc := rfl
@[simp] theorem State.setFb_sp (s : State) (f : Framebuffer) : (s.setFb f).sp = s.sp := rfl
@[simp] theorem State.setFb_stack (s : State) (f : Framebuffer) : (s.setFb f).stack = s.stack := rfl
@[simp] theorem State.setFb_dt (s : State) (f : Framebuffer) : (s.setFb f).dt = s.dt := rfl
@[simp] theorem State.setFb_st (s : State) (f : Framebuffer) : (s.setFb f).st = s.st := rfl
@[simp] theorem State.setFb_fb (s : State) (f : Framebuffer) : (s.setFb f).fb = f := rfl
@[simp] theorem State.setFb_mem (s : State) (f : Framebuffer) : (s.setFb f).mem = s.mem := rfl
@[simp] theorem State.setFb_wait (s : State) (f : Framebuffer) : (s.setFb f).wait = s.wait := rfl
@[simp] theorem State.setFb_kprev (s : State) (f : Framebuffer) : (s.setFb f).kprev = s.kprev := rfl
@[simp] theorem State.setFb_runState (s : State) (f : Framebuffer) : (s.setFb f).runState = s.runState := rfl
@[simp] theorem State.setFb_faultKind (s : State) (f : Framebuffer) : (s.setFb f).faultKind = s.faultKind := rfl
@[simp] theorem State.setFb_faultPc (s : State) (f : Framebuffer) : (s.setFb f).faultPc = s.faultPc := rfl
@[simp] theorem State.setFb_faultAddr (s : State) (f : Framebuffer) : (s.setFb f).faultAddr = s.faultAddr := rfl
@[simp] theorem State.setFb_cfg (s : State) (f : Framebuffer) : (s.setFb f).cfg = s.cfg := rfl
@[simp] theorem State.setFb_inputs (s : State) (f : Framebuffer) : (s.setFb f).inputs = s.inputs := rfl
@[simp] theorem State.setFb_cycleNo (s : State) (f : Framebuffer) : (s.setFb f).cycleNo = s.cycleNo := rfl
@[simp] theorem State.setFb_out (s : State) (f : Framebuffer) : (s.setFb f).out = s.out := rfl

/-! ### setPc -/

@[simp] theorem State.setPc_v (s : State) (a : Word) : (s.setPc a).v = s.v := rfl
@[simp] theorem State.setPc_i (s : State) (a : Word) : (s.setPc a).i = s.i := rfl
@[simp] theorem State.setPc_pc (s : State) (a : Word) : (s.setPc a).pc = a := rfl
@[simp] theorem State.setPc_sp (s : State) (a : Word) : (s.setPc a).sp = s.sp := rfl
@[simp] theorem State.setPc_stack (s : State) (a : Word) : (s.setPc a).stack = s.stack := rfl
@[simp] theorem State.setPc_dt (s : State) (a : Word) : (s.setPc a).dt = s.dt := rfl
@[simp] theorem State.setPc_st (s : State) (a : Word) : (s.setPc a).st = s.st := rfl
@[simp] theorem State.setPc_fb (s : State) (a : Word) : (s.setPc a).fb = s.fb := rfl
@[simp] theorem State.setPc_mem (s : State) (a : Word) : (s.setPc a).mem = s.mem := rfl
@[simp] theorem State.setPc_wait (s : State) (a : Word) : (s.setPc a).wait = s.wait := rfl
@[simp] theorem State.setPc_kprev (s : State) (a : Word) : (s.setPc a).kprev = s.kprev := rfl
@[simp] theorem State.setPc_runState (s : State) (a : Word) : (s.setPc a).runState = s.runState := rfl
@[simp] theorem State.setPc_faultKind (s : State) (a : Word) : (s.setPc a).faultKind = s.faultKind := rfl
@[simp] theorem State.setPc_faultPc (s : State) (a : Word) : (s.setPc a).faultPc = s.faultPc := rfl
@[simp] theorem State.setPc_faultAddr (s : State) (a : Word) : (s.setPc a).faultAddr = s.faultAddr := rfl
@[simp] theorem State.setPc_cfg (s : State) (a : Word) : (s.setPc a).cfg = s.cfg := rfl
@[simp] theorem State.setPc_inputs (s : State) (a : Word) : (s.setPc a).inputs = s.inputs := rfl
@[simp] theorem State.setPc_cycleNo (s : State) (a : Word) : (s.setPc a).cycleNo = s.cycleNo := rfl
@[simp] theorem State.setPc_out (s : State) (a : Word) : (s.setPc a).out = s.out := rfl

/-! ### advance -/

@[simp] theorem State.advance_v (s : State) : s.advance.v = s.v := rfl
@[simp] theorem State.advance_i (s : State) : s.advance.i = s.i := rfl
@[simp] theorem State.advance_pc (s : State) : s.advance.pc = s.pc + 2 := rfl
@[simp] theorem State.advance_sp (s : State) : s.advance.sp = s.sp := rfl
@[simp] theorem State.advance_stack (s : State) : s.advance.stack = s.stack := rfl
@[simp] theorem State.advance_dt (s : State) : s.advance.dt = s.dt := rfl
@[simp] theorem State.advance_st (s : State) : s.advance.st = s.st := rfl
@[simp] theorem State.advance_fb (s : State) : s.advance.fb = s.fb := rfl
@[simp] theorem State.advance_mem (s : State) : s.advance.mem = s.mem := rfl
@[simp] theorem State.advance_wait (s : State) : s.advance.wait = s.wait := rfl
@[simp] theorem State.advance_kprev (s : State) : s.advance.kprev = s.kprev := rfl
@[simp] theorem State.advance_runState (s : State) : s.advance.runState = s.runState := rfl
@[simp] theorem State.advance_faultKind (s : State) : s.advance.faultKind = s.faultKind := rfl
@[simp] theorem State.advance_faultPc (s : State) : s.advance.faultPc = s.faultPc := rfl
@[simp] theorem State.advance_faultAddr (s : State) : s.advance.faultAddr = s.faultAddr := rfl
@[simp] theorem State.advance_cfg (s : State) : s.advance.cfg = s.cfg := rfl
@[simp] theorem State.advance_inputs (s : State) : s.advance.inputs = s.inputs := rfl
@[simp] theorem State.advance_cycleNo (s : State) : s.advance.cycleNo = s.cycleNo := rfl
@[simp] theorem State.advance_out (s : State) : s.advance.out = s.out := rfl

/-! ### skipIf -/

@[simp] theorem State.skipIf_v (s : State) (c : Bool) : (s.skipIf c).v = s.v := rfl
@[simp] theorem State.skipIf_i (s : State) (c : Bool) : (s.skipIf c).i = s.i := rfl
@[simp] theorem State.skipIf_pc (s : State) (c : Bool) : (s.skipIf c).pc = s.pc + if c then 4 else 2 := rfl
@[simp] theorem State.skipIf_sp (s : State) (c : Bool) : (s.skipIf c).sp = s.sp := rfl
@[simp] theorem State.skipIf_stack (s : State) (c : Bool) : (s.skipIf c).stack = s.stack := rfl
@[simp] theorem State.skipIf_dt (s : State) (c : Bool) : (s.skipIf c).dt = s.dt := rfl
@[simp] theorem State.skipIf_st (s : State) (c : Bool) : (s.skipIf c).st = s.st := rfl
@[simp] theorem State.skipIf_fb (s : State) (c : Bool) : (s.skipIf c).fb = s.fb := rfl
@[simp] theorem State.skipIf_mem (s : State) (c : Bool) : (s.skipIf c).mem = s.mem := rfl
@[simp] theorem State.skipIf_wait (s : State) (c : Bool) : (s.skipIf c).wait = s.wait := rfl
@[simp] theorem State.skipIf_kprev (s : State) (c : Bool) : (s.skipIf c).kprev = s.kprev := rfl
@[simp] theorem State.skipIf_runState (s : State) (c : Bool) : (s.skipIf c).runState = s.runState := rfl
@[simp] theorem State.skipIf_faultKind (s : State) (c : Bool) : (s.skipIf c).faultKind = s.faultKind := rfl
@[simp] theorem State.skipIf_faultPc (s : State) (c : Bool) : (s.skipIf c).faultPc = s.faultPc := rfl
@[simp] theorem State.skipIf_faultAddr (s : State) (c : Bool) : (s.skipIf c).faultAddr = s.faultAddr := rfl
@[simp] theorem State.skipIf_cfg (s : State) (c : Bool) : (s.skipIf c).cfg = s.cfg := rfl
@[simp] theorem State.skipIf_inputs (s : State) (c : Bool) : (s.skipIf c).inputs = s.inputs := rfl
@[simp] theorem State.skipIf_cycleNo (s : State) (c : Bool) : (s.skipIf c).cycleNo = s.cycleNo := rfl
@[simp] theorem State.skipIf_out (s : State) (c : Bool) : (s.skipIf c).out = s.out := rfl

/-! ### writeByte -/

@[simp] theorem State.writeByte_v (s : State) (a : Nat) (b : Byte) : (s.writeByte a b).v = s.v := rfl
@[simp] theorem State.writeByte_i (s : State) (a : Nat) (b : Byte) : (s.writeByte a b).i = s.i := rfl
@[simp] theorem State.writeByte_pc (s : State) (a : Nat) (b : Byte) : (s.writeByte a b).pc = s.pc := rfl
@[simp] theorem State.writeByte_sp (s : State) (a : Nat) (b : Byte) : (s.writeByte a b).sp = s.sp := rfl
@[simp] theorem State.writeByte_stack (s : State) (a : Nat) (b : Byte) : (s.writeByte a b).stack = s.stack := rfl
@[simp] theorem State.writeByte_dt (s : State) (a : Nat) (b : Byte) : (s.writeByte a b).dt = s.dt := rfl
@[simp] theorem State.writeByte_st (s : State) (a : Nat) (b : Byte) : (s.writeByte a b).st = s.st := rfl
@[simp] theorem State.writeByte_fb (s : State) (a : Nat) (b : Byte) : (s.writeByte a b).fb = s.fb := rfl
@[simp] theorem State.writeByte_mem (s : State) (a : Nat) (b : Byte) : (s.writeByte a b).mem = Memory.write s.cfg.fontBase s.mem a b := rfl
@[simp] theorem State.writeByte_wait (s : State) (a : Nat) (b : Byte) : (s.writeByte a b).wait = s.wait := rfl
@[simp] theorem State.writeByte_kprev (s : State) (a : Nat) (b : Byte) : (s.writeByte a b).kprev = s.kprev := rfl
@[simp] theorem State.writeByte_runState (s : State) (a : Nat) (b : Byte) : (s.writeByte a b).runState = s.runState := rfl
@[simp] theorem State.writeByte_faultKind (s : State) (a : Nat) (b : Byte) : (s.writeByte a b).faultKind = s.faultKind := rfl
@[simp] theorem State.writeByte_faultPc (s : State) (a : Nat) (b : Byte) : (s.writeByte a b).faultPc = s.faultPc := rfl
@[simp] theorem State.writeByte_faultAddr (s : State) (a : Nat) (b : Byte) : (s.writeByte a b).faultAddr = s.faultAddr := rfl
@[simp] theorem State.writeByte_cfg (s : State) (a : Nat) (b : Byte) : (s.writeByte a b).cfg = s.cfg := rfl
@[simp] theorem State.writeByte_inputs (s : State) (a : Nat) (b : Byte) : (s.writeByte a b).inputs = s.inputs := rfl
@[simp] theorem State.writeByte_cycleNo (s : State) (a : Nat) (b : Byte) : (s.writeByte a b).cycleNo = s.cycleNo := rfl
@[simp] theorem State.writeByte_out (s : State) (a : Nat) (b : Byte) : (s.writeByte a b).out = s.out := rfl

/-! ### takeFault -/

@[simp] theorem State.takeFault_v (s : State) (e : Exception) : (s.takeFault e).v = s.v := rfl
@[simp] theorem State.takeFault_i (s : State) (e : Exception) : (s.takeFault e).i = s.i := rfl
@[simp] theorem State.takeFault_pc (s : State) (e : Exception) : (s.takeFault e).pc = s.pc := rfl
@[simp] theorem State.takeFault_sp (s : State) (e : Exception) : (s.takeFault e).sp = s.sp := rfl
@[simp] theorem State.takeFault_stack (s : State) (e : Exception) : (s.takeFault e).stack = s.stack := rfl
@[simp] theorem State.takeFault_dt (s : State) (e : Exception) : (s.takeFault e).dt = s.dt := rfl
@[simp] theorem State.takeFault_st (s : State) (e : Exception) : (s.takeFault e).st = s.st := rfl
@[simp] theorem State.takeFault_fb (s : State) (e : Exception) : (s.takeFault e).fb = s.fb := rfl
@[simp] theorem State.takeFault_mem (s : State) (e : Exception) : (s.takeFault e).mem = s.mem := rfl
@[simp] theorem State.takeFault_wait (s : State) (e : Exception) : (s.takeFault e).wait = s.wait := rfl
@[simp] theorem State.takeFault_kprev (s : State) (e : Exception) : (s.takeFault e).kprev = s.kprev := rfl
@[simp] theorem State.takeFault_runState (s : State) (e : Exception) : (s.takeFault e).runState = .halted := rfl
@[simp] theorem State.takeFault_faultKind (s : State) (e : Exception) : (s.takeFault e).faultKind = e.kind := rfl
@[simp] theorem State.takeFault_faultPc (s : State) (e : Exception) : (s.takeFault e).faultPc = s.pc := rfl
@[simp] theorem State.takeFault_faultAddr (s : State) (e : Exception) : (s.takeFault e).faultAddr = e.addr := rfl
@[simp] theorem State.takeFault_cfg (s : State) (e : Exception) : (s.takeFault e).cfg = s.cfg := rfl
@[simp] theorem State.takeFault_inputs (s : State) (e : Exception) : (s.takeFault e).inputs = s.inputs := rfl
@[simp] theorem State.takeFault_cycleNo (s : State) (e : Exception) : (s.takeFault e).cycleNo = s.cycleNo := rfl
@[simp] theorem State.takeFault_out (s : State) (e : Exception) : (s.takeFault e).out = s.out := rfl

/-! ### emit -/

@[simp] theorem State.emit_v (s : State) (o : CycleOut) : (s.emit o).v = s.v := rfl
@[simp] theorem State.emit_i (s : State) (o : CycleOut) : (s.emit o).i = s.i := rfl
@[simp] theorem State.emit_pc (s : State) (o : CycleOut) : (s.emit o).pc = s.pc := rfl
@[simp] theorem State.emit_sp (s : State) (o : CycleOut) : (s.emit o).sp = s.sp := rfl
@[simp] theorem State.emit_stack (s : State) (o : CycleOut) : (s.emit o).stack = s.stack := rfl
@[simp] theorem State.emit_dt (s : State) (o : CycleOut) : (s.emit o).dt = s.dt := rfl
@[simp] theorem State.emit_st (s : State) (o : CycleOut) : (s.emit o).st = s.st := rfl
@[simp] theorem State.emit_fb (s : State) (o : CycleOut) : (s.emit o).fb = s.fb := rfl
@[simp] theorem State.emit_mem (s : State) (o : CycleOut) : (s.emit o).mem = s.mem := rfl
@[simp] theorem State.emit_wait (s : State) (o : CycleOut) : (s.emit o).wait = s.wait := rfl
@[simp] theorem State.emit_kprev (s : State) (o : CycleOut) : (s.emit o).kprev = s.kprev := rfl
@[simp] theorem State.emit_runState (s : State) (o : CycleOut) : (s.emit o).runState = s.runState := rfl
@[simp] theorem State.emit_faultKind (s : State) (o : CycleOut) : (s.emit o).faultKind = s.faultKind := rfl
@[simp] theorem State.emit_faultPc (s : State) (o : CycleOut) : (s.emit o).faultPc = s.faultPc := rfl
@[simp] theorem State.emit_faultAddr (s : State) (o : CycleOut) : (s.emit o).faultAddr = s.faultAddr := rfl
@[simp] theorem State.emit_cfg (s : State) (o : CycleOut) : (s.emit o).cfg = s.cfg := rfl
@[simp] theorem State.emit_inputs (s : State) (o : CycleOut) : (s.emit o).inputs = s.inputs.tail := rfl
@[simp] theorem State.emit_cycleNo (s : State) (o : CycleOut) : (s.emit o).cycleNo = s.cycleNo + 1 := rfl
@[simp] theorem State.emit_out (s : State) (o : CycleOut) : (s.emit o).out = some o := rfl

/-! ### Reads through updates -/

@[simp] theorem State.writeV_readByte (s : State) (x : Reg) (b : Byte) (k : Nat) : (s.writeV x b).readByte k = s.readByte k := rfl
@[simp] theorem State.writeV_input (s : State) (x : Reg) (b : Byte) : (s.writeV x b).input = s.input := rfl
@[simp] theorem State.setI_readV (s : State) (a : Word) (r : Reg) : (s.setI a).readV r = s.readV r := rfl
@[simp] theorem State.setI_readByte (s : State) (a : Word) (k : Nat) : (s.setI a).readByte k = s.readByte k := rfl
@[simp] theorem State.setI_input (s : State) (a : Word) : (s.setI a).input = s.input := rfl
@[simp] theorem State.setDt_readV (s : State) (b : Byte) (r : Reg) : (s.setDt b).readV r = s.readV r := rfl
@[simp] theorem State.setDt_readByte (s : State) (b : Byte) (k : Nat) : (s.setDt b).readByte k = s.readByte k := rfl
@[simp] theorem State.setDt_input (s : State) (b : Byte) : (s.setDt b).input = s.input := rfl
@[simp] theorem State.setSt_readV (s : State) (b : Byte) (r : Reg) : (s.setSt b).readV r = s.readV r := rfl
@[simp] theorem State.setSt_readByte (s : State) (b : Byte) (k : Nat) : (s.setSt b).readByte k = s.readByte k := rfl
@[simp] theorem State.setSt_input (s : State) (b : Byte) : (s.setSt b).input = s.input := rfl
@[simp] theorem State.setFb_readV (s : State) (f : Framebuffer) (r : Reg) : (s.setFb f).readV r = s.readV r := rfl
@[simp] theorem State.setFb_readByte (s : State) (f : Framebuffer) (k : Nat) : (s.setFb f).readByte k = s.readByte k := rfl
@[simp] theorem State.setFb_input (s : State) (f : Framebuffer) : (s.setFb f).input = s.input := rfl
@[simp] theorem State.setPc_readV (s : State) (a : Word) (r : Reg) : (s.setPc a).readV r = s.readV r := rfl
@[simp] theorem State.setPc_readByte (s : State) (a : Word) (k : Nat) : (s.setPc a).readByte k = s.readByte k := rfl
@[simp] theorem State.setPc_input (s : State) (a : Word) : (s.setPc a).input = s.input := rfl
@[simp] theorem State.advance_readV (s : State) (r : Reg) : (s.advance).readV r = s.readV r := rfl
@[simp] theorem State.advance_readByte (s : State) (k : Nat) : (s.advance).readByte k = s.readByte k := rfl
@[simp] theorem State.advance_input (s : State) : (s.advance).input = s.input := rfl
@[simp] theorem State.skipIf_readV (s : State) (c : Bool) (r : Reg) : (s.skipIf c).readV r = s.readV r := rfl
@[simp] theorem State.skipIf_readByte (s : State) (c : Bool) (k : Nat) : (s.skipIf c).readByte k = s.readByte k := rfl
@[simp] theorem State.skipIf_input (s : State) (c : Bool) : (s.skipIf c).input = s.input := rfl
@[simp] theorem State.writeByte_readV (s : State) (a : Nat) (b : Byte) (r : Reg) : (s.writeByte a b).readV r = s.readV r := rfl
@[simp] theorem State.writeByte_input (s : State) (a : Nat) (b : Byte) : (s.writeByte a b).input = s.input := rfl
@[simp] theorem State.takeFault_readV (s : State) (e : Exception) (r : Reg) : (s.takeFault e).readV r = s.readV r := rfl
@[simp] theorem State.takeFault_readByte (s : State) (e : Exception) (k : Nat) : (s.takeFault e).readByte k = s.readByte k := rfl
@[simp] theorem State.takeFault_input (s : State) (e : Exception) : (s.takeFault e).input = s.input := rfl
@[simp] theorem State.emit_readV (s : State) (o : CycleOut) (r : Reg) : (s.emit o).readV r = s.readV r := rfl
@[simp] theorem State.emit_readByte (s : State) (o : CycleOut) (k : Nat) : (s.emit o).readByte k = s.readByte k := rfl

end Sys2Proof.Machine
end

