-- ==== Sys2Proof/Laws/Ops.lean ====
section
/-! SUPPORT. One lemma per shared operation that says once everything it can do. -/

namespace Sys2Proof.Machine

open Sys2Proof

/-! ### Registers -/

theorem State.readV_writeV (s : State) (x r : Reg) (b : Byte) :
    (s.writeV x b).readV r = if r = x then b else s.readV r := by
  simp only [State.readV, State.writeV, Vector.getElem_set, BitVec.toNat_inj, eq_comm]

@[simp] theorem State.readV_writeV_same (s : State) (x : Reg) (b : Byte) : (s.writeV x b).readV x = b := by
  simp [State.readV_writeV]

theorem State.readV_writeV_ne (s : State) {x r : Reg} (b : Byte) (h : r ≠ x) :
    (s.writeV x b).readV r = s.readV r := by
  simp [State.readV_writeV, h]

/-- VF holds the flag whatever the destination is (42_alu.md R216). -/
theorem State.readV_writeVFlag (s : State) (x r : Reg) (b f : Byte) :
    (s.writeVFlag x b f).readV r = if r = regF then f else if r = x then b else s.readV r := by
  simp only [State.writeVFlag, State.readV_writeV]

/-- Two states with the same registers have the same `v`. -/
theorem State.v_ext {s t : State} (h : ∀ r, s.readV r = t.readV r) : s.v = t.v := by
  refine Vector.ext fun k hk => ?_
  have := h (BitVec.ofNat 4 k)
  simpa [State.readV, Nat.mod_eq_of_lt hk] using this

/-! ### Memory -/

theorem State.readByte_writeByte (s : State) {a : Nat} (b : Byte) (k : Nat) (ha : a < memorySize) :
    (s.writeByte a b).readByte k = if k = a then b else s.readByte k :=
  Memory.read_write ha

/-- A run of bytes changes `mem` only. -/
theorem State.writeBytes_eq (s : State) (a : Nat) (bs : List Byte) :
    ∃ m, s.writeBytes a bs = { s with mem := m } := by
  induction bs generalizing s a with
  | nil => exact ⟨s.mem, rfl⟩
  | cons b bs ih =>
    obtain ⟨m, hm⟩ := ih (s.writeByte a b) (a + 1)
    exact ⟨m, hm⟩

/-- A run of bytes inside memory: byte `k` of it at `a + k`, every other address as before. -/
theorem State.readByte_writeBytes (s : State) (a : Nat) (bs : List Byte) (k : Nat)
    (h : a + bs.length ≤ memorySize) :
    (s.writeBytes a bs).readByte k =
      if a ≤ k ∧ k < a + bs.length then bs.getD (k - a) 0 else s.readByte k := by
  induction bs generalizing s a with
  | nil => simp [State.writeBytes]
  | cons b bs ih =>
    simp only [List.length_cons] at h
    simp only [State.writeBytes, List.length_cons]
    rw [ih _ _ (by omega), State.readByte_writeByte _ _ _ (by omega)]
    by_cases h1 : k = a
    · subst h1; simp
    · by_cases h2 : a ≤ k ∧ k < a + (bs.length + 1)
      · have : k - a = (k - (a + 1)) + 1 := by omega
        rw [if_pos (by omega), if_pos h2, this]; simp
      · rw [if_neg (by omega), if_neg h1, if_neg h2]

theorem State.writeBytes_canonical (s : State) (a : Nat) (bs : List Byte)
    (h : Memory.wf s.cfg.fontBase s.mem = true) :
    Memory.wf s.cfg.fontBase (s.writeBytes a bs).mem = true := by
  induction bs generalizing s a with
  | nil => exact h
  | cons b bs ih => exact ih (s.writeByte a b) (a + 1) (Memory.wf_write h)

@[simp] theorem State.firstRegs_length (s : State) {n : Nat} (h : n ≤ 16) : (s.firstRegs n).length = n := by
  simp [State.firstRegs, h]

theorem State.firstRegs_getD (s : State) {n k : Nat} (hk : k < n) (h : n ≤ 16) :
    (s.firstRegs n).getD k 0 = s.readV (BitVec.ofNat 4 k) := by
  have h16 : k < 16 := by omega
  simp [State.firstRegs, State.readV, List.getD, hk, Nat.mod_eq_of_lt h16, h16]

/-- A load of `n` registers: the bytes from `a` in V0 to V(n-1), every other register as before. -/
theorem State.readV_loadRegs (s : State) (a n : Nat) (r : Reg) (h : n ≤ 16) :
    (s.loadRegs a n).readV r = if r.toNat < n then s.readByte (a + r.toNat) else s.readV r := by
  induction n with
  | zero => simp [State.loadRegs]
  | succ n ih =>
    simp only [State.loadRegs, State.readV_writeV, ih (by omega)]
    have hr : r = BitVec.ofNat 4 n ↔ r.toNat = n := by
      rw [← BitVec.toNat_inj]; simp [Nat.mod_eq_of_lt (show n < 16 by omega)]
    by_cases h1 : r.toNat = n
    · rw [if_pos (hr.2 h1), if_pos (by omega), h1]
    · rw [if_neg (mt hr.1 h1)]
      by_cases h2 : r.toNat < n
      · rw [if_pos h2, if_pos (by omega)]
      · rw [if_neg h2, if_neg (by omega)]

/-- A load of registers changes `v` only. -/
theorem State.loadRegs_eq (s : State) (a n : Nat) : ∃ w, s.loadRegs a n = { s with v := w } := by
  induction n with
  | zero => exact ⟨s.v, rfl⟩
  | succ n ih =>
    obtain ⟨w, hw⟩ := ih
    exact ⟨_, by rw [State.loadRegs, hw]; rfl⟩

/-! ### Range checks -/

theorem checkRange_eq_none {a n : Nat} : checkRange a n = none ↔ n = 0 ∨ a + n ≤ 4096 := by
  unfold checkRange memorySize; split <;> simp_all

theorem checkRange_eq_some {a n : Nat} {e : Exception} :
    checkRange a n = some e ↔ (n ≠ 0 ∧ 4096 < a + n) ∧ e = .address (max a 4096) := by
  unfold checkRange memorySize
  split
  · simp; omega
  · simp_all [eq_comm]

/-! ### The stack -/

theorem State.push_eq_none {s : State} {a : Word} : s.push a = none ↔ s.sp.val = 16 := by
  unfold State.push; split <;> simp <;> omega

theorem State.push_eq_some {s t : State} {a : Word} (h : s.push a = some t) :
    ∃ hs : s.sp.val < 16,
      t = { s with stack := s.stack.set s.sp.val a hs, sp := ⟨s.sp.val + 1, Nat.succ_lt_succ hs⟩ } := by
  unfold State.push at h
  split at h
  · exact ⟨‹_›, (Option.some.inj h).symm⟩
  · cases h

theorem State.pop_eq_none {s : State} : s.pop = none ↔ s.sp.val = 0 := by
  unfold State.pop; split <;> simp [*]

theorem State.pop_eq_some {s t : State} {a : Word} (h : s.pop = some (a, t)) :
    ∃ (_ : s.sp.val ≠ 0) (lt : s.sp.val - 1 < 16),
      a = s.stack[s.sp.val - 1] ∧ t = { s with sp := ⟨s.sp.val - 1, Nat.lt_succ_of_lt lt⟩ } := by
  unfold State.pop at h
  split at h
  · cases h
  · have := Option.some.inj h
    exact ⟨‹_›, by omega, (congrArg Prod.fst this).symm, (congrArg Prod.snd this).symm⟩

/-! ### Operands and flags -/

theorem flagByte_cases (c : Bool) : flagByte c = 0 ∨ flagByte c = 1 := by cases c <;> simp [flagByte]

@[simp] theorem zext16_toNat (nnn : Imm12) : (zext16 nnn).toNat = nnn.toNat := by
  simp [zext16, Nat.mod_eq_of_lt (show nnn.toNat < 65536 by omega)]

@[simp] theorem zextReg_toNat (b : Byte) : (zextReg b).toNat = b.toNat := by
  simp [zextReg, Nat.mod_eq_of_lt (show b.toNat < 65536 by omega)]

theorem lowNibble_toNat (b : Byte) : (b &&& 0x0F).toNat = b.toNat % 16 := by
  rw [BitVec.toNat_and]; exact Nat.and_two_pow_sub_one_eq_mod b.toNat 4

theorem regCount_le (x : Reg) : regCount x ≤ 16 := by unfold regCount; omega

/-- What `lowestKey` answers: the least index in the set. -/
theorem lowestKey_eq_some {p : Keypad} {k : Nat} :
    lowestKey p = some k ↔ k < 16 ∧ p.getLsbD k = true ∧ ∀ j < k, p.getLsbD j = false := by
  simp only [lowestKey, keyPressed, List.find?_range_eq_some, List.mem_range]
  constructor
  · rintro ⟨h1, h2, h3⟩; exact ⟨by omega, h1, fun j hj => by simpa using h3 j hj⟩
  · rintro ⟨h1, h2, h3⟩; exact ⟨h2, by omega, fun j hj => by simpa using h3 j hj⟩

theorem lowestKey_eq_none {p : Keypad} : lowestKey p = none ↔ ∀ k < 16, p.getLsbD k = false := by
  simp [lowestKey, keyPressed]

end Sys2Proof.Machine
end

