-- ==== Sys2Proof/Laws/Step.lean ====
section
/-! SUPPORT. What fetch and a step can do, said once. -/

namespace Sys2Proof.Machine

open Sys2Proof

/-- The fetch inside memory (40_cycle.md R143). -/
theorem State.fetch_eq_ok {s : State} {op : Word} :
    s.fetch = .ok op ↔
      s.pc.toNat ≤ 4094 ∧ op = wordOfBytes (s.readByte s.pc.toNat) (s.readByte (s.pc.toNat + 1)) := by
  unfold State.fetch
  cases h : checkRange s.pc.toNat 2 with
  | none =>
    have : s.pc.toNat ≤ 4094 := by rcases checkRange_eq_none.1 h with h | h <;> omega
    simp [this, eq_comm]
  | some e => simp; intro h'; have := (checkRange_eq_some.1 h).1; omega

/-- The fetch out of memory (R143). -/
theorem State.fetch_eq_error {s : State} {e : Exception} :
    s.fetch = .error e ↔ 4094 < s.pc.toNat ∧ e = .address (max s.pc.toNat 4096) := by
  unfold State.fetch
  cases h : checkRange s.pc.toNat 2 with
  | none => simp; intro h'; rcases checkRange_eq_none.1 h with h | h <;> omega
  | some e' =>
    obtain ⟨h1, h2⟩ := checkRange_eq_some.1 h
    simp [h2, eq_comm (a := e)]; omega

/-- The update a taken fault makes. -/
theorem raise_eq (e : Exception) (s : State) : raise e s = .next (s.takeFault e) := rfl

/-- Every meaning answers a next state. -/
theorem exec_total (i : Instr) (s : State) : ∃ t, exec i s = .next t := by
  cases i <;> simp only [exec] <;> try exact ⟨_, rfl⟩
  case ret => unfold execRet; split <;> exact ⟨_, rfl⟩
  case call => unfold execCall; split <;> exact ⟨_, rfl⟩
  case drw => unfold execDrw; split <;> exact ⟨_, rfl⟩
  case ldBVx => unfold execLdBVx; split <;> exact ⟨_, rfl⟩
  case ldMemVx => unfold execLdMemVx; split <;> exact ⟨_, rfl⟩
  case ldVxMem => unfold execLdVxMem; split <;> exact ⟨_, rfl⟩

/-- What one step can do, guards included: a halted cycle, a fetch fault, or an execution and the end of its cycle. -/
theorem step_cases {s u : State} (h : step s = .next u) :
    (s.runState = .halted ∧ u = s.haltedCycle) ∨
    (s.runState = .running ∧ ∃ e, s.fetch = .error e ∧ u = (s.takeFault e).faultCycle none none) ∨
    (s.runState = .running ∧ ∃ op t, s.fetch = .ok op ∧
      execDecoded (decode s.cfg.decodeMode op) s = .next t ∧
      u = t.endCycle s.pc op (decode s.cfg.decodeMode op)) := by
  unfold step at h
  split at h
  · exact .inl ⟨‹_›, (Host.Outcome.next.inj h).symm⟩
  · split at h
    · exact .inr (.inl ⟨‹_›, _, ‹_›, (Host.Outcome.next.inj h).symm⟩)
    · split at h
      · exact .inr (.inr ⟨‹_›, _, _, ‹_›, ‹_›, (Host.Outcome.next.inj h).symm⟩)
      · cases h
      · cases h

/-- A step of a running core whose fetch is inside memory is the execution and the end of its cycle. -/
theorem step_of_exec {s t : State} {op : Word} (hr : s.runState = .running) (hf : s.fetch = .ok op)
    (hx : execDecoded (decode s.cfg.decodeMode op) s = .next t) :
    step s = .next (t.endCycle s.pc op (decode s.cfg.decodeMode op)) := by
  simp only [step, hr, hf, hx]

/-- The end of a cycle in the two ways execute can leave the core. -/
theorem State.endCycle_running {t : State} (pc0 op : Word) (d : Decoded) (h : t.runState = .running) :
    t.endCycle pc0 op d = t.execCycle pc0 op d := by
  simp only [State.endCycle, h]

theorem State.endCycle_halted {t : State} (pc0 op : Word) (d : Decoded) (h : t.runState = .halted) :
    t.endCycle pc0 op d = t.faultCycle (some op) (some d.variant) := by
  simp only [State.endCycle, h]

/-- The tick writes DT and ST only. -/
theorem State.tick_eq (s : State) : ∃ d e, s.tick = { s with dt := d, st := e } := by
  unfold State.tick; split
  · exact ⟨_, _, rfl⟩
  · exact ⟨s.dt, s.st, rfl⟩

/-- A decrement stops at 0. -/
theorem decrement_toNat (b : Byte) : (decrement b).toNat = b.toNat - 1 := by
  unfold decrement
  split
  · simp [*]
  · rename_i h
    have hb : b.toNat ≠ 0 := fun hb => h (BitVec.eq_of_toNat_eq hb)
    rw [BitVec.toNat_sub_of_le (by simp [BitVec.le_def]; omega)]
    rfl

/-- The end of a cycle changes DT, ST, the outputs, the supplied inputs and the cycle number only. -/
theorem State.endCycle_eq (t : State) (pc0 op : Word) (d : Decoded) :
    ∃ a b o, t.endCycle pc0 op d =
      { t with dt := a, st := b, out := some o, inputs := t.inputs.tail, cycleNo := t.cycleNo + 1 } := by
  unfold State.endCycle
  split
  · exact ⟨t.dt, t.st, _, rfl⟩
  · obtain ⟨a, b, h⟩ := t.tick_eq
    exact ⟨a, b, _, by rw [State.execCycle, h]; rfl⟩

/-- What execute of a decoded word is. -/
theorem execDecoded_cases {d : Decoded} {s t : State} (h : execDecoded d s = .next t) :
    (∃ i, d = .instr i ∧ exec i s = .next t) ∨ (∃ op, d = .unknown op ∧ t = s.advance) := by
  cases d with
  | instr i => exact .inl ⟨i, rfl, h⟩
  | unknown op => exact .inr ⟨op, rfl, (Host.Outcome.next.inj h).symm⟩

/-- Execute answers a next state for every word. -/
theorem execDecoded_total (d : Decoded) (s : State) : ∃ t, execDecoded d s = .next t := by
  cases d with
  | instr i => exact exec_total i s
  | unknown => exact ⟨_, rfl⟩

/-- So does a step. -/
theorem step_total (s : State) : ∃ u, step s = .next u := by
  unfold step
  split
  · exact ⟨_, rfl⟩
  · split
    · exact ⟨_, rfl⟩
    · rename_i op _
      obtain ⟨t, h⟩ := execDecoded_total (decode s.cfg.decodeMode op) s
      exact ⟨_, by rw [h]⟩

end Sys2Proof.Machine
end

