-- ==== Sys2Proof/Laws/Exec.lean ====
section
/-! SUPPORT. The meanings that may fault, each said once: what they leave when they do and when they do not; and over all instructions, who writes
what and who faults. -/

namespace Sys2Proof.Machine

open Sys2Proof

/-- RET: an underflow, or the pop. -/
theorem execRet_cases {s t : State} (h : execRet s = .next t) :
    (s.sp.val = 0 ∧ t = s.takeFault .stackUnderflow) ∨
    ∃ (_ : s.sp.val ≠ 0) (lt : s.sp.val - 1 < 16),
      t = { s with sp := ⟨s.sp.val - 1, Nat.lt_succ_of_lt lt⟩, pc := s.stack[s.sp.val - 1] + 2 } := by
  unfold execRet at h
  split at h
  · exact .inl ⟨State.pop_eq_none.1 ‹_›, (Host.Outcome.next.inj h).symm⟩
  · obtain ⟨h0, lt, rfl, rfl⟩ := State.pop_eq_some ‹_›
    exact .inr ⟨h0, lt, (Host.Outcome.next.inj h).symm⟩

/-- CALL: an overflow, or the push. -/
theorem execCall_cases {nnn : Imm12} {s t : State} (h : execCall nnn s = .next t) :
    (s.sp.val = 16 ∧ t = s.takeFault .stackOverflow) ∨
    ∃ hs : s.sp.val < 16,
      t = { s with
            stack := s.stack.set s.sp.val s.pc hs
            sp := ⟨s.sp.val + 1, Nat.succ_lt_succ hs⟩
            pc := zext16 nnn } := by
  unfold execCall at h
  split at h
  · exact .inl ⟨State.push_eq_none.1 ‹_›, (Host.Outcome.next.inj h).symm⟩
  · obtain ⟨hs, rfl⟩ := State.push_eq_some ‹_›
    exact .inr ⟨hs, (Host.Outcome.next.inj h).symm⟩

/-- Fx33: an addressing fault, or the three bytes. -/
theorem execLdBVx_cases {x : Reg} {s t : State} (h : execLdBVx x s = .next t) :
    (4095 < s.i.toNat + 2 ∧ t = s.takeFault (.address (max s.i.toNat 4096))) ∨
    (s.i.toNat + 2 ≤ 4095 ∧ t = (s.writeBytes s.i.toNat (decimalDigits (s.readV x))).advance) := by
  unfold execLdBVx at h
  split at h
  · obtain ⟨h1, rfl⟩ := checkRange_eq_some.1 ‹_›
    exact .inl ⟨by simp only [State.effective] at h1; omega, (Host.Outcome.next.inj h).symm⟩
  · exact .inr ⟨by have h0 := checkRange_eq_none.1 ‹_›; simp only [State.effective] at h0; omega,
      (Host.Outcome.next.inj h).symm⟩

/-- Fx55: an addressing fault, or the bytes of V0 to V[x]. -/
theorem execLdMemVx_cases {x : Reg} {s t : State} (h : execLdMemVx x s = .next t) :
    (4095 < s.i.toNat + x.toNat ∧ t = s.takeFault (.address (max s.i.toNat 4096))) ∨
    (s.i.toNat + x.toNat ≤ 4095 ∧ t = (s.writeBytes s.i.toNat (s.firstRegs (x.toNat + 1))).advance) := by
  unfold execLdMemVx at h
  split at h
  · obtain ⟨h1, rfl⟩ := checkRange_eq_some.1 ‹_›
    exact .inl ⟨by simp only [State.effective, regCount] at h1; omega, (Host.Outcome.next.inj h).symm⟩
  · exact .inr ⟨by have h0 := checkRange_eq_none.1 ‹_›; simp only [State.effective, regCount] at h0; omega,
      (Host.Outcome.next.inj h).symm⟩

/-- Fx65: an addressing fault, or the load of V0 to V[x]. -/
theorem execLdVxMem_cases {x : Reg} {s t : State} (h : execLdVxMem x s = .next t) :
    (4095 < s.i.toNat + x.toNat ∧ t = s.takeFault (.address (max s.i.toNat 4096))) ∨
    (s.i.toNat + x.toNat ≤ 4095 ∧ t = (s.loadRegs s.i.toNat (x.toNat + 1)).advance) := by
  unfold execLdVxMem at h
  split at h
  · obtain ⟨h1, rfl⟩ := checkRange_eq_some.1 ‹_›
    exact .inl ⟨by simp only [State.effective, regCount] at h1; omega, (Host.Outcome.next.inj h).symm⟩
  · exact .inr ⟨by have h0 := checkRange_eq_none.1 ‹_›; simp only [State.effective, regCount] at h0; omega,
      (Host.Outcome.next.inj h).symm⟩

/-- Dxyn: an addressing fault, or the drawing. -/
theorem execDrw_cases {x y : Reg} {n : Imm4} {s t : State} (h : execDrw x y n s = .next t) :
    (0 < n.toNat ∧ 4095 < s.i.toNat + n.toNat - 1 ∧ t = s.takeFault (.address (max s.i.toNat 4096))) ∨
    ((n.toNat = 0 ∨ s.i.toNat + n.toNat - 1 ≤ 4095) ∧
      t = ((s.setFb (s.drawSprite x y n).fb).writeV regF (flagByte (s.drawSprite x y n).hit)).advance) := by
  unfold execDrw at h
  split at h
  · obtain ⟨h1, rfl⟩ := checkRange_eq_some.1 ‹_›
    simp only [State.effective] at h1
    exact .inl ⟨by omega, by omega, (Host.Outcome.next.inj h).symm⟩
  · exact .inr ⟨by have h0 := checkRange_eq_none.1 ‹_›; simp only [State.effective] at h0; omega,
      (Host.Outcome.next.inj h).symm⟩

/-- Fx0A: the least waking key, or another cycle of the wait. -/
theorem execLdVxK_cases {x : Reg} {s t : State} (h : execLdVxK x s = .next t) :
    (∃ k, lowestKey s.wakingKeys = some k ∧ t = (s.endWait x k).advance) ∨
    (lowestKey s.wakingKeys = none ∧ t = s.keepWaiting) := by
  have h := Host.Outcome.next.inj h
  split at h
  · exact .inl ⟨_, ‹_›, h.symm⟩
  · exact .inr ⟨‹_›, h.symm⟩

/-- No meaning writes the model's own fields. -/
theorem exec_own {i : Instr} {s t : State} (h : exec i s = .next t) :
    t.cfg = s.cfg ∧ t.inputs = s.inputs ∧ t.cycleNo = s.cycleNo ∧ t.out = s.out := by
  cases i <;> simp only [exec] at h
  case ret => obtain ⟨-, rfl⟩ | ⟨-, -, rfl⟩ := execRet_cases h <;> exact ⟨rfl, rfl, rfl, rfl⟩
  case call => obtain ⟨-, rfl⟩ | ⟨-, rfl⟩ := execCall_cases h <;> exact ⟨rfl, rfl, rfl, rfl⟩
  case drw => obtain ⟨-, -, rfl⟩ | ⟨-, rfl⟩ := execDrw_cases h <;> exact ⟨rfl, rfl, rfl, rfl⟩
  case ldVxK =>
    obtain ⟨k, -, rfl⟩ | ⟨-, rfl⟩ := execLdVxK_cases h
    · exact ⟨rfl, rfl, rfl, rfl⟩
    · unfold State.keepWaiting; split <;> exact ⟨rfl, rfl, rfl, rfl⟩
  case ldBVx =>
    obtain ⟨-, rfl⟩ | ⟨-, rfl⟩ := execLdBVx_cases h
    · exact ⟨rfl, rfl, rfl, rfl⟩
    · obtain ⟨m, hm⟩ := s.writeBytes_eq s.i.toNat (decimalDigits (s.readV ‹Reg›))
      rw [hm]; exact ⟨rfl, rfl, rfl, rfl⟩
  case ldMemVx x =>
    obtain ⟨-, rfl⟩ | ⟨-, rfl⟩ := execLdMemVx_cases h
    · exact ⟨rfl, rfl, rfl, rfl⟩
    · obtain ⟨m, hm⟩ := s.writeBytes_eq s.i.toNat (s.firstRegs (x.toNat + 1))
      rw [hm]; exact ⟨rfl, rfl, rfl, rfl⟩
  case ldVxMem x =>
    obtain ⟨-, rfl⟩ | ⟨-, rfl⟩ := execLdVxMem_cases h
    · exact ⟨rfl, rfl, rfl, rfl⟩
    · obtain ⟨w, hw⟩ := s.loadRegs_eq s.i.toNat (x.toNat + 1)
      rw [hw]; exact ⟨rfl, rfl, rfl, rfl⟩
  all_goals
    obtain rfl := Host.Outcome.next.inj h
    exact ⟨rfl, rfl, rfl, rfl⟩

/-- Which instructions can write each part of the state beside the registers, PC and the fault record. -/
theorem exec_writers {i : Instr} {s t : State} (h : exec i s = .next t) :
    ((∃ x, i = .ldVxK x) ∨ (t.wait = s.wait ∧ t.kprev = s.kprev)) ∧
    ((∃ x, i = .ldBVx x ∨ i = .ldMemVx x) ∨ t.mem = s.mem) ∧
    (((∃ nnn, i = .ldI nnn) ∨ ∃ x, i = .addIVx x ∨ i = .ldFVx x) ∨ t.i = s.i) ∧
    ((i = .ret ∨ ∃ nnn, i = .call nnn) ∨ (t.sp = s.sp ∧ t.stack = s.stack)) ∧
    ((i = .cls ∨ ∃ x y n, i = .drw x y n) ∨ t.fb = s.fb) ∧
    ((∃ x, i = .ldDtVx x) ∨ t.dt = s.dt) ∧ ((∃ x, i = .ldStVx x) ∨ t.st = s.st) := by
  cases i <;> simp only [exec] at h
  case ret => obtain ⟨-, rfl⟩ | ⟨-, -, rfl⟩ := execRet_cases h <;> simp [State.takeFault]
  case call => obtain ⟨-, rfl⟩ | ⟨-, rfl⟩ := execCall_cases h <;> simp [State.takeFault]
  case drw => obtain ⟨-, -, rfl⟩ | ⟨-, rfl⟩ := execDrw_cases h <;> simp [State.takeFault]
  case ldVxK =>
    obtain ⟨k, -, rfl⟩ | ⟨-, rfl⟩ := execLdVxK_cases h
    · simp [State.endWait]
    · unfold State.keepWaiting; split <;> simp
  case ldBVx =>
    obtain ⟨-, rfl⟩ | ⟨-, rfl⟩ := execLdBVx_cases h
    · simp [State.takeFault]
    · obtain ⟨m, hm⟩ := s.writeBytes_eq s.i.toNat (decimalDigits (s.readV ‹Reg›))
      rw [hm]; simp
  case ldMemVx x =>
    obtain ⟨-, rfl⟩ | ⟨-, rfl⟩ := execLdMemVx_cases h
    · simp [State.takeFault]
    · obtain ⟨m, hm⟩ := s.writeBytes_eq s.i.toNat (s.firstRegs (x.toNat + 1))
      rw [hm]; simp
  case ldVxMem x =>
    obtain ⟨-, rfl⟩ | ⟨-, rfl⟩ := execLdVxMem_cases h
    · simp [State.takeFault]
    · obtain ⟨w, hw⟩ := s.loadRegs_eq s.i.toNat (x.toNat + 1)
      rw [hw]; simp
  all_goals
    obtain rfl := Host.Outcome.next.inj h
    simp [State.writeVFlag]

/-- An instruction takes a fault's entry, of these kinds on these conditions, or none of the conditions holds and it leaves
RUN_STATE and the fault record. -/
theorem exec_fault_cases {i : Instr} {s t : State} (h : exec i s = .next t) :
    (∃ e, t = s.takeFault e ∧
      ((i = .ret ∧ s.sp.val = 0 ∧ e = .stackUnderflow) ∨
      (∃ nnn, i = .call nnn ∧ s.sp.val = 16 ∧ e = .stackOverflow) ∨
      (∃ x y n, i = .drw x y n ∧ 0 < n.toNat ∧ 4095 < s.i.toNat + n.toNat - 1 ∧ e = .address (max s.i.toNat 4096)) ∨
      (∃ x, i = .ldBVx x ∧ 4095 < s.i.toNat + 2 ∧ e = .address (max s.i.toNat 4096)) ∨
      (∃ x, (i = .ldMemVx x ∨ i = .ldVxMem x) ∧ 4095 < s.i.toNat + x.toNat ∧ e = .address (max s.i.toNat 4096)))) ∨
    ((t.runState = s.runState ∧ t.faultKind = s.faultKind ∧ t.faultPc = s.faultPc ∧ t.faultAddr = s.faultAddr) ∧
      ¬((i = .ret ∧ s.sp.val = 0) ∨
      (∃ nnn, i = .call nnn ∧ s.sp.val = 16) ∨
      (∃ x y n, i = .drw x y n ∧ 0 < n.toNat ∧ 4095 < s.i.toNat + n.toNat - 1) ∨
      (∃ x, i = .ldBVx x ∧ 4095 < s.i.toNat + 2) ∨
      (∃ x, (i = .ldMemVx x ∨ i = .ldVxMem x) ∧ 4095 < s.i.toNat + x.toNat))) := by
  cases i <;> simp only [exec] at h
  case ret =>
    obtain ⟨h0, rfl⟩ | ⟨h0, -, rfl⟩ := execRet_cases h
    · exact .inl ⟨_, rfl, by simp [h0]⟩
    · refine .inr ⟨⟨rfl, rfl, rfl, rfl⟩, ?_⟩; simp; intro h; simp [h] at h0
  case call =>
    obtain ⟨h0, rfl⟩ | ⟨h0, rfl⟩ := execCall_cases h
    · exact .inl ⟨_, rfl, by simp [h0]⟩
    · refine .inr ⟨⟨rfl, rfl, rfl, rfl⟩, ?_⟩; simp; omega
  case drw =>
    obtain ⟨h0, h1, rfl⟩ | ⟨h0, rfl⟩ := execDrw_cases h
    · exact .inl ⟨_, rfl, by simp [h0, h1]⟩
    · refine .inr ⟨⟨rfl, rfl, rfl, rfl⟩, ?_⟩; simp; omega
  case ldVxK =>
    obtain ⟨k, -, rfl⟩ | ⟨-, rfl⟩ := execLdVxK_cases h
    · right; simp [State.endWait]
    · right; unfold State.keepWaiting; split <;> simp
  case ldBVx =>
    obtain ⟨h0, rfl⟩ | ⟨h0, rfl⟩ := execLdBVx_cases h
    · exact .inl ⟨_, rfl, by simp [h0]⟩
    · right
      obtain ⟨m, hm⟩ := s.writeBytes_eq s.i.toNat (decimalDigits (s.readV ‹Reg›))
      rw [hm]; simp; omega
  case ldMemVx x =>
    obtain ⟨h0, rfl⟩ | ⟨h0, rfl⟩ := execLdMemVx_cases h
    · exact .inl ⟨_, rfl, by simp [h0]⟩
    · right
      obtain ⟨m, hm⟩ := s.writeBytes_eq s.i.toNat (s.firstRegs (x.toNat + 1))
      rw [hm]; simp; omega
  case ldVxMem x =>
    obtain ⟨h0, rfl⟩ | ⟨h0, rfl⟩ := execLdVxMem_cases h
    · exact .inl ⟨_, rfl, by simp [h0]⟩
    · right
      obtain ⟨w, hw⟩ := s.loadRegs_eq s.i.toNat (x.toNat + 1)
      rw [hw]; simp; omega
  all_goals
    obtain rfl := Host.Outcome.next.inj h
    right
    simp [State.writeVFlag]

end Sys2Proof.Machine
end

