-- ==== Sys2Proof/Laws/PerInstr.lean ====
section
/-! SUPPORT. Per instruction: its encoding matches its row of the opcode table, in both decode modes. -/

namespace Sys2Proof.Laws.EncodesToRow

open Sys2Proof

/-- The word of the instruction has the fixed bits of a row of its variant. -/
def Statement (i : Instr) : Prop :=
  ∀ mode, ∃ r ∈ opcodeTable mode, r.variant = i.variant ∧ r.matchesWord (encode i) = true

/-- A row that is the same in both modes. -/
theorem of_row {i : Instr} (p m : Word) (hr : ∀ mode, ⟨i.variant, p, m⟩ ∈ opcodeTable mode)
    (hm : encode i &&& m = p) : Statement i :=
  fun mode => ⟨⟨i.variant, p, m⟩, hr mode, rfl, by simp [OpcodeRow.matchesWord, hm]⟩

/-- A row whose mask is narrower in FAMILY mode. -/
theorem of_rows {i : Instr} (p m m' : Word) (hs : ⟨i.variant, p, m⟩ ∈ opcodeTable .strict)
    (hf : ⟨i.variant, p, m'⟩ ∈ opcodeTable .family) (hm : encode i &&& m = p) (hm' : encode i &&& m' = p) :
    Statement i
  | .strict => ⟨⟨i.variant, p, m⟩, hs, rfl, by simp [OpcodeRow.matchesWord, hm]⟩
  | .family => ⟨⟨i.variant, p, m'⟩, hf, rfl, by simp [OpcodeRow.matchesWord, hm']⟩

theorem cls : Statement .cls :=
  of_rows 0x00E0 0xFFFF 0xF0FF (by decide) (by decide) (by decide) (by decide)

theorem ret : Statement .ret :=
  of_rows 0x00EE 0xFFFF 0xF0FF (by decide) (by decide) (by decide) (by decide)

theorem jp (nnn : Imm12) : Statement (.jp nnn) :=
  of_row 0x1000 0xF000 (fun mode => by cases mode <;> simp [opcodeTable, opcodeRows0to7, opcodeRows8, opcodeRows9toE, opcodeRowsF, Instr.variant])
    ((wordNNN_mask 0x1 nnn).trans (by decide))

theorem call (nnn : Imm12) : Statement (.call nnn) :=
  of_row 0x2000 0xF000 (fun mode => by cases mode <;> simp [opcodeTable, opcodeRows0to7, opcodeRows8, opcodeRows9toE, opcodeRowsF, Instr.variant])
    ((wordNNN_mask 0x2 nnn).trans (by decide))

theorem seImm (x : Reg) (kk : Imm8) : Statement (.seImm x kk) :=
  of_row 0x3000 0xF000 (fun mode => by cases mode <;> simp [opcodeTable, opcodeRows0to7, opcodeRows8, opcodeRows9toE, opcodeRowsF, Instr.variant])
    ((wordXKK_mask 0x3 x kk).trans (by decide))

theorem sneImm (x : Reg) (kk : Imm8) : Statement (.sneImm x kk) :=
  of_row 0x4000 0xF000 (fun mode => by cases mode <;> simp [opcodeTable, opcodeRows0to7, opcodeRows8, opcodeRows9toE, opcodeRowsF, Instr.variant])
    ((wordXKK_mask 0x4 x kk).trans (by decide))

theorem seReg (x : Reg) (y : Reg) : Statement (.seReg x y) :=
  of_rows 0x5000 0xF00F 0xF000 (by simp [opcodeTable, opcodeRows0to7, opcodeRows8, opcodeRows9toE, opcodeRowsF, Instr.variant]) (by simp [opcodeTable, opcodeRows0to7, opcodeRows8, opcodeRows9toE, opcodeRowsF, Instr.variant])
    ((wordXYN_mask_sub 0x5 x y 0).trans (by decide)) ((wordXYN_mask 0x5 x y 0).trans (by decide))

theorem ldImm (x : Reg) (kk : Imm8) : Statement (.ldImm x kk) :=
  of_row 0x6000 0xF000 (fun mode => by cases mode <;> simp [opcodeTable, opcodeRows0to7, opcodeRows8, opcodeRows9toE, opcodeRowsF, Instr.variant])
    ((wordXKK_mask 0x6 x kk).trans (by decide))

theorem addImm (x : Reg) (kk : Imm8) : Statement (.addImm x kk) :=
  of_row 0x7000 0xF000 (fun mode => by cases mode <;> simp [opcodeTable, opcodeRows0to7, opcodeRows8, opcodeRows9toE, opcodeRowsF, Instr.variant])
    ((wordXKK_mask 0x7 x kk).trans (by decide))

theorem ldReg (x : Reg) (y : Reg) : Statement (.ldReg x y) :=
  of_row 0x8000 0xF00F (fun mode => by cases mode <;> simp [opcodeTable, opcodeRows0to7, opcodeRows8, opcodeRows9toE, opcodeRowsF, Instr.variant])
    ((wordXYN_mask_sub 0x8 x y 0x0).trans (by decide))

theorem orReg (x : Reg) (y : Reg) : Statement (.orReg x y) :=
  of_row 0x8001 0xF00F (fun mode => by cases mode <;> simp [opcodeTable, opcodeRows0to7, opcodeRows8, opcodeRows9toE, opcodeRowsF, Instr.variant])
    ((wordXYN_mask_sub 0x8 x y 0x1).trans (by decide))

theorem andReg (x : Reg) (y : Reg) : Statement (.andReg x y) :=
  of_row 0x8002 0xF00F (fun mode => by cases mode <;> simp [opcodeTable, opcodeRows0to7, opcodeRows8, opcodeRows9toE, opcodeRowsF, Instr.variant])
    ((wordXYN_mask_sub 0x8 x y 0x2).trans (by decide))

theorem xorReg (x : Reg) (y : Reg) : Statement (.xorReg x y) :=
  of_row 0x8003 0xF00F (fun mode => by cases mode <;> simp [opcodeTable, opcodeRows0to7, opcodeRows8, opcodeRows9toE, opcodeRowsF, Instr.variant])
    ((wordXYN_mask_sub 0x8 x y 0x3).trans (by decide))

theorem addReg (x : Reg) (y : Reg) : Statement (.addReg x y) :=
  of_row 0x8004 0xF00F (fun mode => by cases mode <;> simp [opcodeTable, opcodeRows0to7, opcodeRows8, opcodeRows9toE, opcodeRowsF, Instr.variant])
    ((wordXYN_mask_sub 0x8 x y 0x4).trans (by decide))

theorem sub (x : Reg) (y : Reg) : Statement (.sub x y) :=
  of_row 0x8005 0xF00F (fun mode => by cases mode <;> simp [opcodeTable, opcodeRows0to7, opcodeRows8, opcodeRows9toE, opcodeRowsF, Instr.variant])
    ((wordXYN_mask_sub 0x8 x y 0x5).trans (by decide))

theorem shr (x : Reg) (y : Reg) : Statement (.shr x y) :=
  of_row 0x8006 0xF00F (fun mode => by cases mode <;> simp [opcodeTable, opcodeRows0to7, opcodeRows8, opcodeRows9toE, opcodeRowsF, Instr.variant])
    ((wordXYN_mask_sub 0x8 x y 0x6).trans (by decide))

theorem subn (x : Reg) (y : Reg) : Statement (.subn x y) :=
  of_row 0x8007 0xF00F (fun mode => by cases mode <;> simp [opcodeTable, opcodeRows0to7, opcodeRows8, opcodeRows9toE, opcodeRowsF, Instr.variant])
    ((wordXYN_mask_sub 0x8 x y 0x7).trans (by decide))

theorem shl (x : Reg) (y : Reg) : Statement (.shl x y) :=
  of_row 0x800E 0xF00F (fun mode => by cases mode <;> simp [opcodeTable, opcodeRows0to7, opcodeRows8, opcodeRows9toE, opcodeRowsF, Instr.variant])
    ((wordXYN_mask_sub 0x8 x y 0xE).trans (by decide))

theorem sneReg (x : Reg) (y : Reg) : Statement (.sneReg x y) :=
  of_rows 0x9000 0xF00F 0xF000 (by simp [opcodeTable, opcodeRows0to7, opcodeRows8, opcodeRows9toE, opcodeRowsF, Instr.variant]) (by simp [opcodeTable, opcodeRows0to7, opcodeRows8, opcodeRows9toE, opcodeRowsF, Instr.variant])
    ((wordXYN_mask_sub 0x9 x y 0).trans (by decide)) ((wordXYN_mask 0x9 x y 0).trans (by decide))

theorem ldI (nnn : Imm12) : Statement (.ldI nnn) :=
  of_row 0xA000 0xF000 (fun mode => by cases mode <;> simp [opcodeTable, opcodeRows0to7, opcodeRows8, opcodeRows9toE, opcodeRowsF, Instr.variant])
    ((wordNNN_mask 0xA nnn).trans (by decide))

theorem jpV0 (nnn : Imm12) : Statement (.jpV0 nnn) :=
  of_row 0xB000 0xF000 (fun mode => by cases mode <;> simp [opcodeTable, opcodeRows0to7, opcodeRows8, opcodeRows9toE, opcodeRowsF, Instr.variant])
    ((wordNNN_mask 0xB nnn).trans (by decide))

theorem rnd (x : Reg) (kk : Imm8) : Statement (.rnd x kk) :=
  of_row 0xC000 0xF000 (fun mode => by cases mode <;> simp [opcodeTable, opcodeRows0to7, opcodeRows8, opcodeRows9toE, opcodeRowsF, Instr.variant])
    ((wordXKK_mask 0xC x kk).trans (by decide))

theorem drw (x : Reg) (y : Reg) (n : Imm4) : Statement (.drw x y n) :=
  of_row 0xD000 0xF000 (fun mode => by cases mode <;> simp [opcodeTable, opcodeRows0to7, opcodeRows8, opcodeRows9toE, opcodeRowsF, Instr.variant])
    ((wordXYN_mask 0xD x y n).trans (by decide))

theorem skp (x : Reg) : Statement (.skp x) :=
  of_row 0xE09E 0xF0FF (fun mode => by cases mode <;> simp [opcodeTable, opcodeRows0to7, opcodeRows8, opcodeRows9toE, opcodeRowsF, Instr.variant])
    ((wordXKK_mask_sub 0xE x 0x9E).trans (by decide))

theorem sknp (x : Reg) : Statement (.sknp x) :=
  of_row 0xE0A1 0xF0FF (fun mode => by cases mode <;> simp [opcodeTable, opcodeRows0to7, opcodeRows8, opcodeRows9toE, opcodeRowsF, Instr.variant])
    ((wordXKK_mask_sub 0xE x 0xA1).trans (by decide))

theorem ldVxDt (x : Reg) : Statement (.ldVxDt x) :=
  of_row 0xF007 0xF0FF (fun mode => by cases mode <;> simp [opcodeTable, opcodeRows0to7, opcodeRows8, opcodeRows9toE, opcodeRowsF, Instr.variant])
    ((wordXKK_mask_sub 0xF x 0x07).trans (by decide))

theorem ldVxK (x : Reg) : Statement (.ldVxK x) :=
  of_row 0xF00A 0xF0FF (fun mode => by cases mode <;> simp [opcodeTable, opcodeRows0to7, opcodeRows8, opcodeRows9toE, opcodeRowsF, Instr.variant])
    ((wordXKK_mask_sub 0xF x 0x0A).trans (by decide))

theorem ldDtVx (x : Reg) : Statement (.ldDtVx x) :=
  of_row 0xF015 0xF0FF (fun mode => by cases mode <;> simp [opcodeTable, opcodeRows0to7, opcodeRows8, opcodeRows9toE, opcodeRowsF, Instr.variant])
    ((wordXKK_mask_sub 0xF x 0x15).trans (by decide))

theorem ldStVx (x : Reg) : Statement (.ldStVx x) :=
  of_row 0xF018 0xF0FF (fun mode => by cases mode <;> simp [opcodeTable, opcodeRows0to7, opcodeRows8, opcodeRows9toE, opcodeRowsF, Instr.variant])
    ((wordXKK_mask_sub 0xF x 0x18).trans (by decide))

theorem addIVx (x : Reg) : Statement (.addIVx x) :=
  of_row 0xF01E 0xF0FF (fun mode => by cases mode <;> simp [opcodeTable, opcodeRows0to7, opcodeRows8, opcodeRows9toE, opcodeRowsF, Instr.variant])
    ((wordXKK_mask_sub 0xF x 0x1E).trans (by decide))

theorem ldFVx (x : Reg) : Statement (.ldFVx x) :=
  of_row 0xF029 0xF0FF (fun mode => by cases mode <;> simp [opcodeTable, opcodeRows0to7, opcodeRows8, opcodeRows9toE, opcodeRowsF, Instr.variant])
    ((wordXKK_mask_sub 0xF x 0x29).trans (by decide))

theorem ldBVx (x : Reg) : Statement (.ldBVx x) :=
  of_row 0xF033 0xF0FF (fun mode => by cases mode <;> simp [opcodeTable, opcodeRows0to7, opcodeRows8, opcodeRows9toE, opcodeRowsF, Instr.variant])
    ((wordXKK_mask_sub 0xF x 0x33).trans (by decide))

theorem ldMemVx (x : Reg) : Statement (.ldMemVx x) :=
  of_row 0xF055 0xF0FF (fun mode => by cases mode <;> simp [opcodeTable, opcodeRows0to7, opcodeRows8, opcodeRows9toE, opcodeRowsF, Instr.variant])
    ((wordXKK_mask_sub 0xF x 0x55).trans (by decide))

theorem ldVxMem (x : Reg) : Statement (.ldVxMem x) :=
  of_row 0xF065 0xF0FF (fun mode => by cases mode <;> simp [opcodeTable, opcodeRows0to7, opcodeRows8, opcodeRows9toE, opcodeRowsF, Instr.variant])
    ((wordXKK_mask_sub 0xF x 0x65).trans (by decide))

end Sys2Proof.Laws.EncodesToRow
end

