-- ==== Sys2Proof/Laws/Session.lean ====
section
/-! SUPPORT. What each operation of the host does to a session, said once. -/

namespace Sys2Proof.Machine

open Sys2Proof

/-- RESET, in every phase. -/
theorem Session.operate_reset (z : Session) : z.operate .reset = .next (⟨z.core.hostReset, .fresh⟩, .nothing) := rfl

/-- A LOAD that fits, in its place. -/
theorem Session.operate_load_ok {z : Session} {rom : List Byte} (hz : z.phase = .fresh) (hr : rom.length ≤ 3584) :
    z.operate (.load rom) = .next (⟨z.core.writeBytes loadAddress rom, .loaded⟩, .load .ok) := by
  simp [Session.operate, Session.load, hz, State.load, romWellFormed, maxRomBytes, hr]

/-- A LOAD that does not fit. -/
theorem Session.operate_load_capacity {z : Session} {rom : List Byte} (hz : z.phase = .fresh) (hr : 3584 < rom.length) :
    z.operate (.load rom) = .next (⟨z.core, .loadFailed⟩, .load .capacity) := by
  simp [Session.operate, Session.load, hz, State.load, romWellFormed, maxRomBytes, Nat.not_le.2 hr]

/-- A LOAD out of its place. -/
theorem Session.operate_load_refused {z : Session} (rom : List Byte) (hz : z.phase ≠ .fresh) :
    z.operate (.load rom) = .refused .loadOutsideBoot := by
  show z.load rom = _
  unfold Session.load
  split
  · exact absurd ‹_› hz
  all_goals rfl

/-- A CYCLE is the machine's step on its inputs. -/
theorem Session.operate_cycle {z : Session} {inp : CycleInput} {u : State} (hz : z.phase ≠ .loadFailed)
    (h : step { z.core with inputs := [inp] } = .next u) :
    z.operate (.cycle inp) = .next (⟨u, .running⟩, .cycle u.out) := by
  show z.cycle inp = _
  unfold Session.cycle
  split
  · exact absurd ‹_› hz
  all_goals rw [h]

/-- A CYCLE after a failed LOAD. -/
theorem Session.operate_cycle_refused {z : Session} (inp : CycleInput) (hz : z.phase = .loadFailed) :
    z.operate (.cycle inp) = .refused .cycleAfterFailedLoad := by
  simp [Session.operate, Session.cycle, hz]

end Sys2Proof.Machine
end

