-- ==== Sys2Proof/Machine/Assembly.lean ====
section
/-! DEFINITION. The spec's assembly spelling (30_encoding.md R129, R130): an aid to reading, on which no rule depends. Of the
spellings R130 allows, an address, a byte and a word are written in hexadecimal and `n` in decimal (DESIGN CHOICE, log entry 13). -/

namespace Sys2Proof

/-- A hexadecimal digit. -/
def hexDigit (n : Nat) : Char := ['0', '1', '2', '3', '4', '5', '6', '7', '8', '9', 'A', 'B', 'C', 'D', 'E', 'F'].getD (n % 16) '0'

/-- The last `k` hexadecimal digits of a number. -/
def hexDigits : Nat → Nat → List Char
  | 0, _ => []
  | k + 1, n => hexDigits k (n / 16) ++ [hexDigit n]

/-- An immediate of `k` hexadecimal digits, with its prefix. -/
def hexSpelling (k n : Nat) : String := "0x" ++ String.ofList (hexDigits k n)

/-- A register: `V0` to `VF`. -/
def Reg.spelling (x : Reg) : String := "V" ++ String.ofList [hexDigit x.toNat]

/-- A mnemonic with its operands, the destination first. -/
def asmLine (mnemonic : String) (operands : List String) : String := mnemonic ++ " " ++ String.intercalate ", " operands

/-- The assembly line of an instruction. -/
def Instr.assembly : Instr → String
  | .cls => "CLS"
  | .ret => "RET"
  | .jp nnn => asmLine "JP" [hexSpelling 3 nnn.toNat]
  | .call nnn => asmLine "CALL" [hexSpelling 3 nnn.toNat]
  | .seImm x kk => asmLine "SE" [x.spelling, hexSpelling 2 kk.toNat]
  | .sneImm x kk => asmLine "SNE" [x.spelling, hexSpelling 2 kk.toNat]
  | .seReg x y => asmLine "SE" [x.spelling, y.spelling]
  | .ldImm x kk => asmLine "LD" [x.spelling, hexSpelling 2 kk.toNat]
  | .addImm x kk => asmLine "ADD" [x.spelling, hexSpelling 2 kk.toNat]
  | .ldReg x y => asmLine "LD" [x.spelling, y.spelling]
  | .orReg x y => asmLine "OR" [x.spelling, y.spelling]
  | .andReg x y => asmLine "AND" [x.spelling, y.spelling]
  | .xorReg x y => asmLine "XOR" [x.spelling, y.spelling]
  | .addReg x y => asmLine "ADD" [x.spelling, y.spelling]
  | .sub x y => asmLine "SUB" [x.spelling, y.spelling]
  | .shr x y => asmLine "SHR" [x.spelling, y.spelling]
  | .subn x y => asmLine "SUBN" [x.spelling, y.spelling]
  | .shl x y => asmLine "SHL" [x.spelling, y.spelling]
  | .sneReg x y => asmLine "SNE" [x.spelling, y.spelling]
  | .ldI nnn => asmLine "LD" ["I", hexSpelling 3 nnn.toNat]
  | .jpV0 nnn => asmLine "JP" ["V0", hexSpelling 3 nnn.toNat]
  | .rnd x kk => asmLine "RND" [x.spelling, hexSpelling 2 kk.toNat]
  | .drw x y n => asmLine "DRW" [x.spelling, y.spelling, toString n.toNat]
  | .skp x => asmLine "SKP" [x.spelling]
  | .sknp x => asmLine "SKNP" [x.spelling]
  | .ldVxDt x => asmLine "LD" [x.spelling, "DT"]
  | .ldVxK x => asmLine "LD" [x.spelling, "K"]
  | .ldDtVx x => asmLine "LD" ["DT", x.spelling]
  | .ldStVx x => asmLine "LD" ["ST", x.spelling]
  | .addIVx x => asmLine "ADD" ["I", x.spelling]
  | .ldFVx x => asmLine "LD" ["F", x.spelling]
  | .ldBVx x => asmLine "LD" ["B", x.spelling]
  | .ldMemVx x => asmLine "LD" ["[I]", x.spelling]
  | .ldVxMem x => asmLine "LD" [x.spelling, "[I]"]

/-- The assembly line of a word, `.word 0xHHHH` where it is unknown (R130). -/
def Decoded.assembly : Decoded → String
  | .instr i => i.assembly
  | .unknown op => asmLine ".word" [hexSpelling 4 op.toNat]

/-- The variant name of R129, as a DIAG record carries it (40_cycle.md R155). -/
def Variant.spelling : Variant → String
  | .cls => "CLS" | .ret => "RET" | .jp => "JP" | .call => "CALL" | .seImm => "SE_IMM" | .sneImm => "SNE_IMM"
  | .seReg => "SE_REG" | .ldImm => "LD_IMM" | .addImm => "ADD_IMM" | .ldReg => "LD_REG" | .orReg => "OR"
  | .andReg => "AND" | .xorReg => "XOR" | .addReg => "ADD_REG" | .sub => "SUB" | .shr => "SHR" | .subn => "SUBN"
  | .shl => "SHL" | .sneReg => "SNE_REG" | .ldI => "LD_I" | .jpV0 => "JP_V0" | .rnd => "RND" | .drw => "DRW"
  | .skp => "SKP" | .sknp => "SKNP" | .ldVxDt => "LD_VX_DT" | .ldVxK => "LD_VX_K" | .ldDtVx => "LD_DT_VX"
  | .ldStVx => "LD_ST_VX" | .addIVx => "ADD_I_VX" | .ldFVx => "LD_F_VX" | .ldBVx => "LD_B_VX"
  | .ldMemVx => "LD_MEM_VX" | .ldVxMem => "LD_VX_MEM" | .unknown => "UNKNOWN"

end Sys2Proof
end

