-- ==== Sys2Proof/Tests/Slice0.lean ====
section
/-! SUPPORT. Tests, with expected results from spec/95_test_vectors.md (the vector is named in the docstring) and the encodings of
30_encoding.md, and the witnesses of the statements' hypotheses. -/

namespace Sys2Proof.Tests

open Sys2Proof Sys2Proof.Machine

/-! ### Helpers -/

/-- The inputs of a vector that names none: no key, no tick, RND 0. -/
def quiet : CycleInput := ⟨0, false, 0⟩

/-- The keys of a list, pressed. -/
def keys (ks : List Nat) : CycleInput := ⟨ks.foldl (fun a k => a ||| (1 <<< k)) 0, false, 0⟩

/-- The start of a vector: after reset, with quiet inputs and the word where the fetch reads. -/
def start (w : Nat) : State := ({ State.reset with inputs := [quiet] } : State).withFetchWord 16 w

/-- The same under another configuration. -/
def startWith (c : Config) (w : Nat) : State :=
  ({ State.resetWith c with inputs := [quiet] } : State).withFetchWord 16 w

/-- One register set. -/
def setV (s : State) (x : Reg) (b : Byte) : State := s.writeV x b

/-- The state after one step. -/
def next (s : State) : Option State :=
  match step s with
  | .next t => some t
  | .fault _ => none
  | .refused _ => none

/-- The state after two steps. -/
def next2 (s : State) : Option State := (next s).bind next

/-- The lit pixels of a row, by column. -/
def litIn (s : State) (r : Fin 32) : List Nat := (List.range 64).filter fun c => pixel s.fb r (Fin.ofNat 64 c)

/-- One pixel lit. -/
def light (s : State) (r : Fin 32) (c : Fin 64) : State := s.setFb (flipPixel s.fb r c)

/-- STATUS of the last cycle. -/
def status (s : State) : Option Status := s.out.map (·.status)

/-- BEEP of the last cycle. -/
def beep (s : State) : Option Bool := s.out.map (·.beep)

/-- RUN_STATE and the fault record. -/
def record (s : State) : RunState × FaultKind × Word × Nat := (s.runState, s.faultKind, s.faultPc, s.faultAddr)

/-- The other settings of the parameters, one at a time. -/
def familyMode : Config := { Config.default with decodeMode := .family }
def shiftY : Config := { Config.default with shiftSource := .y }
def font50 : Config := { Config.default with fontBase := 0x050 }
def external : Config := { Config.default with tickSource := .external }
def level : Config := { Config.default with keyWaitTrigger := .level }
def wrapped : Config := { Config.default with drawVertical := .wrap }

/-! ### Well-formedness: the two checks (00_scope.md R11, 70_reset_and_hazards.md R372) -/

theorem test_default_config_accepted : Config.default.wellFormed = true := by decide
theorem test_highest_font_base_accepted : ({ Config.default with fontBase := 0x1B0 } : Config).wellFormed = true := by decide
theorem test_font_base_past_0x1B0_refused : ({ Config.default with fontBase := 0x1B1 } : Config).wellFormed = false := by decide
theorem test_rom_of_3584_bytes_accepted : romWellFormed (List.replicate 3584 0) = true := by
  rw [romWellFormed, List.length_replicate]; decide
theorem test_rom_of_3585_bytes_refused : romWellFormed (List.replicate 3585 0) = false := by
  rw [romWellFormed, List.length_replicate]; decide

/-! ### Decode: words written out from the encodings (30_encoding.md R112, R116 to R120, and 95_test_vectors.md) -/

/-- Family 0 and the jumps: 00E0, 00EE, 1234, 2300, B300, BFFF. -/
theorem test_decode_control :
    decode .strict 0b0000_0000_1110_0000 = .instr .cls ∧ decode .strict 0b0000_0000_1110_1110 = .instr .ret ∧
    decode .strict 0b0001_0010_0011_0100 = .instr (.jp 0x234) ∧ decode .strict 0b0010_0011_0000_0000 = .instr (.call 0x300) ∧
    decode .strict 0b1011_0011_0000_0000 = .instr (.jpV0 0x300) ∧ decode .strict 0xBFFF = .instr (.jpV0 0xFFF) := by decide

/-- The skips: 3310, 4311, 5340, 9350. -/
theorem test_decode_skips :
    decode .strict 0b0011_0011_0001_0000 = .instr (.seImm 3 0x10) ∧ decode .strict 0b0100_0011_0001_0001 = .instr (.sneImm 3 0x11) ∧
    decode .strict 0b0101_0011_0100_0000 = .instr (.seReg 3 4) ∧ decode .strict 0b1001_0011_0101_0000 = .instr (.sneReg 3 5) := by
  decide

/-- Immediates: 6A42, 7A10, A21E, C00F. -/
theorem test_decode_immediates :
    decode .strict 0b0110_1010_0100_0010 = .instr (.ldImm 0xA 0x42) ∧ decode .strict 0b0111_1010_0001_0000 = .instr (.addImm 0xA 0x10) ∧
    decode .strict 0b1010_0010_0001_1110 = .instr (.ldI 0x21E) ∧ decode .strict 0b1100_0000_0000_1111 = .instr (.rnd 0 0x0F) := by
  decide

/-- Family 8: 8010 to 8014, 8235, 8346, 8327, 831E. -/
theorem test_decode_family8 :
    decode .strict 0b1000_0000_0001_0000 = .instr (.ldReg 0 1) ∧ decode .strict 0b1000_0000_0001_0001 = .instr (.orReg 0 1) ∧
    decode .strict 0b1000_0000_0001_0010 = .instr (.andReg 0 1) ∧ decode .strict 0b1000_0000_0001_0011 = .instr (.xorReg 0 1) ∧
    decode .strict 0b1000_0000_0001_0100 = .instr (.addReg 0 1) ∧ decode .strict 0b1000_0010_0011_0101 = .instr (.sub 2 3) ∧
    decode .strict 0b1000_0011_0100_0110 = .instr (.shr 3 4) ∧ decode .strict 0b1000_0011_0010_0111 = .instr (.subn 3 2) ∧
    decode .strict 0b1000_0011_0001_1110 = .instr (.shl 3 1) := by decide

/-- Dxyn and family E: D013, E29E, E2A1. -/
theorem test_decode_display_and_keys :
    decode .strict 0b1101_0000_0001_0011 = .instr (.drw 0 1 3) ∧ decode .strict 0b1110_0010_1001_1110 = .instr (.skp 2) ∧
    decode .strict 0b1110_0010_1010_0001 = .instr (.sknp 2) := by decide

/-- Family F: F307, F30A, F015, F118, F21E, F029, F033, F255, F265. -/
theorem test_decode_familyF :
    decode .strict 0b1111_0011_0000_0111 = .instr (.ldVxDt 3) ∧ decode .strict 0b1111_0011_0000_1010 = .instr (.ldVxK 3) ∧
    decode .strict 0b1111_0000_0001_0101 = .instr (.ldDtVx 0) ∧ decode .strict 0b1111_0001_0001_1000 = .instr (.ldStVx 1) ∧
    decode .strict 0b1111_0010_0001_1110 = .instr (.addIVx 2) ∧ decode .strict 0b1111_0000_0010_1001 = .instr (.ldFVx 0) ∧
    decode .strict 0b1111_0000_0011_0011 = .instr (.ldBVx 0) ∧ decode .strict 0b1111_0010_0101_0101 = .instr (.ldMemVx 2) ∧
    decode .strict 0b1111_0010_0110_0101 = .instr (.ldVxMem 2) := by decide

/-- F-CY1 to F-CY9 and R126: unknown words, and the words the modes read differently. -/
theorem test_decode_unknown_and_modes :
    (∀ m, decode m 0x0000 = .unknown 0x0000 ∧ decode m 0x8008 = .unknown 0x8008 ∧ decode m 0xE09F = .unknown 0xE09F ∧
      decode m 0xF000 = .unknown 0xF000 ∧ decode m 0x0123 = .unknown 0x0123) ∧
    decode .strict 0x01E0 = .unknown 0x01E0 ∧ decode .family 0x01E0 = .instr .cls ∧ decode .family 0x0FEE = .instr .ret ∧
    decode .strict 0x5121 = .unknown 0x5121 ∧ decode .family 0x5121 = .instr (.seReg 1 2) ∧
    decode .strict 0x912F = .unknown 0x912F ∧ decode .family 0x912F = .instr (.sneReg 1 2) := by
  refine ⟨fun m => ?_, by decide⟩
  cases m <;> decide

/-- The table's numbering: the word itself; an unknown word is refused. -/
theorem test_decode_table_word : decodeTableWord 16 0x6A42 = some (.ldImm 0xA 0x42) ∧ decodeTableWord 16 0x0123 = none := by decide

/-- The spelling of program P8 and P4, and of a word that is no instruction (P2). -/
theorem test_assembly :
    (decode .strict 0xF30A).assembly = "LD V3, K" ∧ (decode .strict 0xD005).assembly = "DRW V0, V0, 5" ∧
    (decode .strict 0x1206).assembly = "JP 0x206" ∧ (decode .strict 0x0000).assembly = ".word 0x0000" := by decide

/-! ### The cycle -/

/-- F-CY1: the word of empty memory. -/
theorem test_unknown_cycle : (next (start 0x0000)).map (fun t => (t.pc, t.out)) =
    some (0x202, some ⟨.ok, false, some ⟨.unknown, 0x200, some 0x0000, some .unknown, none⟩⟩) := by decide

/-- F-CY10: the tick runs in an unknown cycle. -/
theorem test_unknown_cycle_ticks : (next { start 0x0000 with dt := 5, st := 1 }).map (fun t => (t.dt, t.st, beep t)) =
    some (4, 0, some true) := by decide

/-- F-CY11: a fetch of the last two bytes. -/
theorem test_fetch_at_0xFFE :
    (next (({ State.reset with pc := 0xFFE, inputs := [quiet] } : State).withFetchWord 16 0x1200)).map (fun t => (t.pc, status t)) =
      some (0x200, some .ok) := by decide

/-- F-CY12, F-CY13: fetches out of range. -/
theorem test_fetch_faults :
    (next { start 0 with pc := 0xFFF, dt := 5 }).map (fun t => (record t, t.pc, t.dt, status t)) =
      some ((.halted, .address, 0xFFF, 0x1000), 0xFFF, 5, some .fault) ∧
    (next { start 0 with pc := 0x2000 }).map (·.out) =
      some (some ⟨.fault, false, some ⟨.fault, 0x2000, none, none, some (.address, 0x2000)⟩⟩) := by decide

/-- F-CY14: an odd PC. -/
theorem test_odd_pc : (next (({ State.reset with pc := 0x201, inputs := [quiet] } : State).withFetchWord 16 0x6007)).map
    (fun t => (t.readV 0, t.pc)) = some (0x07, 0x203) := by decide

/-- F-CY15: a halted core does nothing. -/
theorem test_halted_cycle : (next { start 0x6A42 with runState := .halted, dt := 5 }).map
    (fun t => (t.dt, t.pc, t.readV 0xA, t.out)) = some (5, 0x200, 0, some ⟨.halted, false, none⟩) := by decide

/-- F-CY16, F-CY17: the external tick. -/
theorem test_external_tick :
    (next { startWith external 0x1200 with dt := 5 }).map (·.dt) = some 5 ∧
    (next { startWith external 0x1200 with dt := 5, inputs := [⟨0, true, 0⟩] }).map (·.dt) = some 4 := by decide

/-- F-CY18, F-CY19: timers at 0, and no beep at 1. -/
theorem test_timers :
    (next (start 0x1200)).map (fun t => (t.dt, t.st, beep t)) = some (0, 0, some false) ∧
    (next { start 0x1200 with st := 2 }).map (fun t => (t.st, beep t)) = some (1, some false) := by decide

/-! ### Control flow -/

/-- F-CF1, F-CF3. -/
theorem test_jp : (next (start 0x1234)).map (·.pc) = some 0x234 ∧ (next (start 0x1FFF)).map (·.pc) = some 0xFFF := by decide

/-- F-CF4, F-CF5. -/
theorem test_call :
    (next (start 0x2300)).map (fun t => (t.stack[0], t.sp, t.pc)) = some (0x200, 1, 0x300) ∧
    (next { start 0x2300 with sp := 16 }).map (fun t => (record t, t.sp, t.pc)) =
      some ((.halted, .stackOverflow, 0x200, 0), 16, 0x200) := by decide

/-- F-CF8, F-CF7. -/
theorem test_ret :
    (next { start 0x00EE with sp := 2, stack := (State.reset.stack.set 0 0x200).set 1 0x310 }).map
      (fun t => (t.sp, t.pc, t.stack[1])) = some (1, 0x312, 0x310) ∧
    (next (start 0x00EE)).map (fun t => (record t, t.sp, t.pc)) = some ((.halted, .stackUnderflow, 0x200, 0), 0, 0x200) := by decide

/-- S3: the call and the return, two cycles. -/
theorem test_call_and_return :
    (next2 { (start 0x2300).writeByte 0x301 0xEE with inputs := [quiet, quiet] }).map (fun t => (t.pc, t.sp)) = some (0x202, 0) := by
  decide

/-- S2, with V3 = V4 = 0x10 and V5 = 0x11. -/
theorem test_skips_taken :
    [0x3310, 0x4311, 0x5340, 0x9350].map (fun w => (next (setV (setV (setV (start w) 3 0x10) 4 0x10) 5 0x11)).map (·.pc)) =
      List.replicate 4 (some 0x204) := by decide
theorem test_skips_not_taken :
    [0x3311, 0x4310, 0x5350, 0x9340].map (fun w => (next (setV (setV (setV (start w) 3 0x10) 4 0x10) 5 0x11)).map (·.pc)) =
      List.replicate 4 (some 0x202) := by decide

/-- F-CF17: a skip past the end of memory. -/
theorem test_skip_at_0xFFC :
    (next (({ State.reset with pc := 0xFFC, inputs := [quiet] } : State).withFetchWord 16 0x3000)).map (·.pc) = some 0x1000 := by decide

/-- F-CF9, F-CF10. -/
theorem test_jp_v0 : (next (setV (start 0xB300) 0 0x04)).map (·.pc) = some 0x304 ∧
    (next (setV (start 0xBFFF) 0 0xFF)).map (·.pc) = some 0x10FE := by decide

/-! ### Loads and arithmetic -/

/-- F-AL1, F-AL2. -/
theorem test_ld_imm : (next (start 0x6A42)).map (fun t => (t.readV 0xA, t.pc)) = some (0x42, 0x202) ∧
    (next (start 0x6F07)).map (·.readV regF) = some 0x07 := by decide

/-- F-AL3, S1. -/
theorem test_add_imm : (next (setV (start 0x7003) 0 0xFE)).map (fun t => (t.readV 0, t.readV regF)) = some (0x01, 0) ∧
    (next (setV (start 0x7F80) 0xF 0x80)).map (·.readV regF) = some 0x00 := by decide

/-- F-AL5 to F-AL8: copy, or, and, exclusive or. -/
theorem test_copy_and_logic :
    (next (setV (start 0x8010) 1 0x33)).map (·.readV 0) = some 0x33 ∧
    (next (setV (setV (setV (start 0x8011) 0 0x0F) 1 0xF0) 0xF 0x05)).map (fun t => (t.readV 0, t.readV regF)) = some (0xFF, 0x05) ∧
    (next (setV (setV (start 0x8012) 0 0x3C) 1 0x0F)).map (·.readV 0) = some 0x0C ∧
    (next (setV (setV (start 0x8013) 0 0xFF) 1 0x0F)).map (·.readV 0) = some 0xF0 := by decide

/-- F-AL10, F-AL13, F-AL14. -/
theorem test_add : (next (setV (setV (start 0x8014) 0 0xFF) 1 0x01)).map (fun t => (t.readV 0, t.readV regF)) = some (0x00, 1) ∧
    (next (setV (setV (start 0x8F14) 0xF 0xFF) 1 0x02)).map (·.readV regF) = some 1 ∧
    (next (setV (setV (start 0x80F4) 0 0x01) 0xF 0xFF)).map (fun t => (t.readV 0, t.readV regF)) = some (0x00, 1) := by decide

/-- F-AL16, F-AL17, F-AL18. -/
theorem test_sub : (next (setV (setV (start 0x8235) 2 0x03) 3 0x03)).map (fun t => (t.readV 2, t.readV regF)) = some (0x00, 1) ∧
    (next (setV (start 0x8235) 3 0x01)).map (fun t => (t.readV 2, t.readV regF)) = some (0xFF, 0) ∧
    (next (setV (setV (start 0x8F35) 0xF 0x10) 3 0x01)).map (·.readV regF) = some 1 := by decide

/-- F-AL19, F-AL20. -/
theorem test_subn : (next (setV (setV (start 0x8327) 3 0x03) 2 0x02)).map (fun t => (t.readV 3, t.readV regF)) = some (0xFF, 0) ∧
    (next (setV (setV (start 0x8327) 3 0x02) 2 0x05)).map (fun t => (t.readV 3, t.readV regF)) = some (0x03, 1) := by decide

/-- F-AL24, F-AL25: the two shift sources; F-AL29. -/
theorem test_shr : (next (setV (setV (start 0x8346) 3 0x02) 4 0x03)).map (fun t => (t.readV 3, t.readV regF)) = some (0x01, 0) ∧
    (next (setV (setV (startWith shiftY 0x8346) 3 0x02) 4 0x03)).map (fun t => (t.readV 3, t.readV regF, t.readV 4)) =
      some (0x01, 1, 0x03) ∧
    (next (setV (start 0x8F06) 0xF 0x02)).map (·.readV regF) = some 0 := by decide

/-- F-AL26, F-AL28. -/
theorem test_shl : (next (setV (start 0x830E) 3 0x80)).map (fun t => (t.readV 3, t.readV regF)) = some (0x00, 1) ∧
    (next (setV (setV (startWith shiftY 0x834E) 3 0x01) 4 0x81)).map (fun t => (t.readV 3, t.readV regF)) = some (0x02, 1) := by decide

/-- F-AL30. -/
theorem test_rnd : (next { start 0xC00F with inputs := [⟨0, false, 0xA5⟩] }).map (·.readV 0) = some 0x05 := by decide

/-! ### Index register and memory transfers -/

/-- F-IM1. -/
theorem test_ld_i : (next (start 0xA21E)).map (fun t => (t.i, t.pc)) = some (0x21E, 0x202) := by decide

/-- F-IM3, F-IM4. -/
theorem test_add_i : (next (setV { start 0xF21E with i := 0xFFF } 2 0x01)).map (fun t => (t.i, t.readV regF)) = some (0x1000, 0) ∧
    (next (setV { start 0xF21E with i := 0xFFFF } 2 0x02)).map (·.i) = some 0x0001 := by decide

/-- F-IM7, F-IM8. -/
theorem test_ld_f : (next (setV (start 0xF029) 0 0x1A)).map (·.i) = some 0x032 ∧
    (next (setV (startWith font50 0xF029) 0 0x0F)).map (·.i) = some 0x09B := by decide

/-- F-IM9, F-IM11. -/
theorem test_ld_b :
    (next (setV { start 0xF033 with i := 0x300 } 0 0x7B)).map (fun t => ([0x300, 0x301, 0x302].map t.readByte, t.i)) =
      some ([1, 2, 3], 0x300) ∧
    (next (setV { start 0xF033 with i := 0xFFE } 0 0x7B)).map (fun t => (record t, t.readByte 0xFFE)) =
      some ((.halted, .address, 0x200, 0x1000), 0) := by decide

/-- F-IM12, F-IM14. -/
theorem test_store_regs :
    (next (setV (setV (setV { start 0xF255 with i := 0x400 } 0 1) 1 2) 2 3)).map
      (fun t => ([0x400, 0x401, 0x402, 0x403].map t.readByte, t.i)) = some ([1, 2, 3, 0], 0x400) ∧
    (next (setV { start 0xF155 with i := 0xFFF } 0 0xAA)).map (fun t => (record t, t.readByte 0xFFF)) =
      some ((.halted, .address, 0x200, 0x1000), 0) := by decide

/-- F-IM19, F-IM20: glyph 0 after reset; no register written on a fault. -/
theorem test_load_regs :
    (next (start 0xF465)).map (fun t => [0, 1, 2, 3, 4, 5].map t.readV) = some [0xF0, 0x90, 0x90, 0x90, 0xF0, 0] ∧
    (next ({ start 0xF565 with i := 0xFFC }.writeByte 0xFFC 0x77)).map (fun t => (record t, t.readV 0)) =
      some ((.halted, .address, 0x200, 0x1000), 0) := by decide

/-! ### Display -/

/-- F-DS1. -/
theorem test_cls : (next (light (start 0x00E0) 5 5)).map (fun t => (litIn t 5, t.pc)) = some ([], 0x202) := by decide

/-- F-DS3: columns wrap. -/
theorem test_drw_columns :
    (next ((setV { start 0xD011 with i := 0x300 } 0 60).writeByte 0x300 0xFF)).map (fun t => (litIn t 0, t.readV regF)) =
      some ([0, 1, 2, 3, 60, 61, 62, 63], 0) := by decide

/-- F-DS4, F-DS5: rows clip or wrap. -/
def threeRows (c : Config) : State :=
  (((setV { startWith c 0xD013 with i := 0x300 } 1 30).writeByte 0x300 0x80).writeByte 0x301 0x80).writeByte 0x302 0x80
theorem test_drw_rows :
    (next (threeRows Config.default)).map (fun t => [30, 31, 0].map (litIn t)) = some [[0], [0], []] ∧
    (next (threeRows wrapped)).map (fun t => [30, 31, 0].map (litIn t)) = some [[0], [0], [0]] := by decide

/-- F-DS6: coordinates beyond the screen; F-DS7: the old VF as a column. -/
theorem test_drw_coordinates :
    (next ((setV (setV { start 0xD011 with i := 0x300 } 0 69) 1 37).writeByte 0x300 0x80)).map (litIn · 5) = some [5] ∧
    (next ((setV { start 0xDF11 with i := 0x300 } 0xF 10).writeByte 0x300 0x80)).map (fun t => (litIn t 0, t.readV regF)) =
      some ([10], 0) := by decide

/-- F-DS12, F-DS13: a collision, and a lit pixel that is not covered. -/
theorem test_drw_collision :
    (next ((light { start 0xD011 with i := 0x300 } 0 0).writeByte 0x300 0x80)).map (fun t => (litIn t 0, t.readV regF)) =
      some ([], 1) ∧
    (next ((light { start 0xD011 with i := 0x300 } 0 1).writeByte 0x300 0x80)).map (fun t => (litIn t 0, t.readV regF)) =
      some ([0, 1], 0) := by decide

/-- F-DS9, F-DS10: height 0 checks nothing; a sprite past the end faults. -/
theorem test_drw_range :
    (next (setV { start 0xD010 with i := 0xFFFF } 0xF 9)).map (fun t => (record t, t.readV regF)) =
      some ((.running, .none, 0, 0), 0) ∧
    (next (setV { start 0xD013 with i := 0xFFE } 0xF 9)).map (fun t => (record t, t.readV regF)) =
      some ((.halted, .address, 0x200, 0x1000), 9) := by decide

/-! ### Keypad and timers -/

/-- F-KT1, F-KT2, F-KT5. -/
theorem test_skp :
    [(0x07, [7]), (0x07, []), (0x17, [7])].map (fun p => (next (setV { start 0xE29E with inputs := [keys p.2] } 2 p.1)).map (·.pc)) =
      [some 0x204, some 0x202, some 0x204] := by decide

/-- F-KT3, F-KT4. -/
theorem test_sknp :
    [[], [7]].map (fun p => (next (setV { start 0xE2A1 with inputs := [keys p] } 2 0x07)).map (·.pc)) =
      [some 0x204, some 0x202] := by decide

/-- F-KT6. -/
theorem test_ld_vx_dt : (next { start 0xF307 with dt := 5 }).map (fun t => (t.readV 3, t.dt)) = some (5, 4) := by decide

/-- F-KT8, F-KT10. -/
theorem test_ld_dt_vx : (next (setV (start 0xF015) 0 3)).map (·.dt) = some 2 ∧
    (next (setV (startWith external 0xF015) 0 3)).map (·.dt) = some 3 := by decide

/-- F-KT11, F-KT12. -/
theorem test_ld_st_vx : (next (setV (start 0xF118) 1 2)).map (fun t => (t.st, beep t)) = some (1, some false) ∧
    (next (setV (start 0xF118) 1 1)).map (fun t => (t.st, beep t)) = some (0, some true) := by decide

/-- F-KT14, F-KT17: the sample, then the key that went down. -/
theorem test_key_wait_edge :
    (next (start 0xF00A)).map (fun t => (status t, t.wait, t.pc)) = some (some .waiting, true, 0x200) ∧
    (next2 { start 0xF00A with inputs := [keys [9], keys [3, 9]] }).map (fun t => (t.readV 0, t.wait, t.pc, status t)) =
      some (0x03, false, 0x202, some .ok) := by decide

/-- F-KT18, F-KT15 (first two cycles): LEVEL completes at once, EDGE does not. -/
theorem test_key_wait_level :
    (next { startWith level 0xF00A with inputs := [keys [5]] }).map (fun t => (t.readV 0, t.pc)) = some (0x05, 0x202) ∧
    (next2 { start 0xF00A with inputs := [keys [5], keys [5]] }).map (fun t => (status t, t.pc, t.kprev)) =
      some (some .waiting, 0x200, 0x20) := by decide

/-! ### Reset, load and boot -/

/-- F-RS1, F-RS2: the font. -/
theorem test_font :
    [0x000, 0x001, 0x004, 0x04B, 0x04C, 0x04F, 0x050].map State.reset.readByte = [0xF0, 0x90, 0xF0, 0xF0, 0x80, 0x80, 0] ∧
    [0x04F, 0x050, 0x051, 0x09F, 0x0A0].map (State.resetWith font50).readByte = [0, 0xF0, 0x90, 0x80, 0] := by decide

/-- F-EX2: RESET after a fault. -/
theorem test_reset_after_fault : (next (start 0x00EE)).map (fun t => record t.hostReset) = some (.running, .none, 0, 0) := by decide

/-- The first bytes of the program a session holds, and its phase. -/
def loaded (o : Host.Outcome (Session × Answer) Fault Refusal) : Option (Byte × Byte × Phase) :=
  match o with
  | .next (z, _) => some (z.core.readByte 0x200, z.core.readByte 0x201, z.phase)
  | .fault _ => none
  | .refused _ => none

/-- V0 and PC of the core of a session. -/
def ran (o : Host.Outcome (Session × Answer) Fault Refusal) : Option (Byte × Word) :=
  match o with
  | .next (z, _) => some (z.core.readV 0, z.core.pc)
  | .fault _ => none
  | .refused _ => none

/-- The session an operation leaves. -/
def left (z : Session) (o : Operation) : Session :=
  match z.operate o with
  | .next (z', _) => z'
  | .fault _ => z
  | .refused _ => z

/-- RESET, LOAD, CYCLE: S7's first cycle. -/
theorem test_boot_runs : ran ((left (left ⟨State.reset, .running⟩ .reset) (.load [0x60, 0x05])).operate (.cycle quiet)) =
    some (0x05, 0x202) := by decide

/-- The boot sequence, with S7's first bytes. -/
theorem test_boot : loaded ((Session.start Config.default).operate (.load [0x60, 0x05])) = some (0x60, 0x05, .loaded) := by decide

/-! ### Witnesses: for each statement with hypotheses, states and operands that meet them, at the boundaries of its clauses -/

/-- A state after one step, for the states that step. -/
def after (s : State) : State := (next s).getD s

/-- A halted state. -/
def halted : State := after (start 0x00EE)

/-- RecognizedWordsCarryTheirOperands: a STRICT word, and for FAMILY both ends of each family it reads otherwise and of the
others. -/
theorem witness_recognized_words : decode .strict 0x8327 = .instr (.subn 3 2) ∧ hiNibble 0x5000 = 5 ∧ hiNibble 0x5FFF = 5 ∧
    hiNibble 0x9000 = 9 ∧ hiNibble 0x9FFF = 9 ∧ hiNibble 0x0FE0 = 0 ∧ hiNibble 0x0FEE = 0 ∧ hiNibble 0x0FFF = 0 ∧
    hiNibble 0x1000 ∉ [0, 5, 9] ∧ hiNibble 0xFFFF ∉ [0, 5, 9] := by decide

/-- UnknownWordsOfEachMode, each clause of each list at its ends. -/
theorem witness_unknown_words :
    [0x00DF, 0x00EF, 0x0FFF, 0x5001, 0x900F, 0x8008, 0x800D, 0x800F, 0xE09F, 0xF000, 0xFFFF].map (decode .strict) =
      [0x00DF, 0x00EF, 0x0FFF, 0x5001, 0x900F, 0x8008, 0x800D, 0x800F, 0xE09F, 0xF000, 0xFFFF].map Decoded.unknown ∧
    [0x01E1, 0x0000, 0x8FFD, 0x8FFF, 0xEF00, 0xFF66].map (decode .family) =
      [0x01E1, 0x0000, 0x8FFD, 0x8FFF, 0xEF00, 0xFF66].map Decoded.unknown := by decide

/-- FamiliesEAndFDispatchOnLowByte. -/
theorem witness_families_E_and_F : hiNibble 0xE09E = 14 ∧ hiNibble 0xEFA1 = 14 ∧ hiNibble 0xF007 = 15 ∧ hiNibble 0xFF65 = 15 ∧
    hiNibble 0xFFFF = 15 := by decide

/-- ResetClearsRegistersStackTimersIndex, ResetClearsScreenWaitAndFaultRecord, InvariantsHoldAfterReset: a RESET of a halted
core. -/
theorem witness_reset : State.reset = State.reset ∧ (∃ s : State, halted.hostReset = s.hostReset) ∧ halted.runState = .halted :=
  ⟨rfl, ⟨halted, rfl⟩, by decide⟩

/-- ResetMemoryIsZeroButTheFont: both ends of FONT_BASE, of the font and of the rest. -/
theorem witness_reset_memory : (State.resetWith Config.default).cfg.wellFormed = true ∧
    (State.resetWith { Config.default with fontBase := 0x1B0 }).cfg.wellFormed = true ∧ (15 < 16 ∧ 4 < 5) ∧
    ((0x1AF < 0x1B0) ∧ 0x1B0 + 80 ≤ 0x200) := by decide

/-- LoadPlacesTheRomOrChangesNothing, BootRunsTheFirstWordOfTheRom: both ends of a LOAD, and a session out of place. -/
theorem witness_load : (List.replicate 3584 (1 : Byte)).length ≤ 3584 ∧ 2 ≤ (List.replicate 3584 (1 : Byte)).length ∧
    3584 < (List.replicate 3585 (1 : Byte)).length ∧ 2 ≤ ([0x60, 0x05] : List Byte).length ∧
    (⟨State.reset, .loaded⟩ : Session).phase ≠ .fresh := by
  simp only [List.length_replicate]; decide

/-- BootRunsTheFirstWordOfTheRom: a session that RESET made from a halted one, and a session that may run a CYCLE. -/
theorem witness_boot : ∃ z₀ z : Session, z.operate .reset = .next (z₀, .nothing) ∧ z.core.runState = .halted ∧
    z.phase ≠ .loadFailed := ⟨_, ⟨halted, .running⟩, rfl, by decide, by decide⟩

/-- StepRunsTheDecodedInstruction, FetchIsBigEndian, at the last address. -/
theorem witness_step : ∃ s : State, s.runState = .running ∧ s.pc.toNat = 4094 ∧
    (0x1200 : Word).toNat = 256 * (s.readByte s.pc.toNat).toNat + (s.readByte (s.pc.toNat + 1)).toNat ∧
    decode s.cfg.decodeMode 0x1200 = .instr (.jp 0x200) :=
  ⟨({ State.reset with pc := 0xFFE } : State).withFetchWord 16 0x1200, by decide⟩

/-- FetchOutOfRangeFaults, at both ends of the range. -/
theorem witness_fetch_fault : ∃ s t : State, s.runState = .running ∧ s.pc.toNat = 4095 ∧ t.runState = .running ∧ t.pc.toNat = 65535 :=
  ⟨{ State.reset with pc := 0xFFF }, { State.reset with pc := 0xFFFF }, by decide⟩

/-- UnknownOpcodeAdvancesByTwo. -/
theorem witness_unknown : (start 0x8008).runState = .running ∧ (start 0x8008).fetch = .ok 0x8008 ∧
    decode (start 0x8008).cfg.decodeMode 0x8008 = .unknown 0x8008 := by decide

/-- HaltedCycleChangesNothing; SoundTimerTickAndBeep, its first clause. -/
theorem witness_halted : halted.runState = .halted ∧ (∃ u, step halted = .next u) := ⟨by decide, halted.haltedCycle, by rfl⟩

/-- FaultingInstructionStepHasNoTick, FaultsArePrecise; SoundTimerTickAndBeep and DelayTimerTick, the faulting cycle. -/
theorem witness_faulting_step : ∃ t, (start 0x00EE).runState = .running ∧ (start 0x00EE).fetch = .ok 0x00EE ∧
    decode (start 0x00EE).cfg.decodeMode 0x00EE = .instr .ret ∧ exec .ret (start 0x00EE) = .next t ∧ t.runState = .halted :=
  ⟨(start 0x00EE).takeFault .stackUnderflow, by decide, by rfl, by decide, by rfl, rfl⟩

/-- SoundTimerTickAndBeep: a fetch fault; a tick that beeps. -/
theorem witness_sound_fetch_fault : ∃ s u e, step s = .next u ∧ s.fetch = .error e :=
  ⟨{ State.reset with pc := 0xFFF }, _, .address 4096, rfl, rfl⟩
theorem witness_sound_beep : ∃ s t op, s.runState = .running ∧ s.fetch = .ok op ∧
    execDecoded (decode s.cfg.decodeMode op) s = .next t ∧ t.runState = .running ∧ TickOn s ∧ t.st = 1 :=
  ⟨{ start 0x0000 with st := 1 }, _, 0x0000, rfl, rfl, rfl, rfl, .inl rfl, rfl⟩

/-- SoundTimerTickAndBeep, DelayTimerTick: a tick that is not enabled, and one that an input enables. -/
theorem witness_tick_off : ∃ s t op, s.runState = .running ∧ s.fetch = .ok op ∧
    execDecoded (decode s.cfg.decodeMode op) s = .next t ∧ ¬(t.runState = .running ∧ TickOn s) :=
  ⟨startWith external 0x1200, _, 0x1200, rfl, rfl, rfl, fun h => h.2.elim (by decide) (by decide)⟩
theorem witness_tick_input : ∃ s t op, s.runState = .running ∧ s.fetch = .ok op ∧
    execDecoded (decode s.cfg.decodeMode op) s = .next t ∧ t.runState = .running ∧ TickOn s ∧ t.dt = 0 :=
  ⟨{ startWith external 0x1200 with inputs := [⟨0, true, 0⟩] }, _, 0x1200, rfl, rfl, rfl, rfl, .inr rfl, rfl⟩

/-- OutputsOfACompletedCycle: a waiting cycle and a completed one. -/
theorem witness_outputs : ∃ t t', (start 0xF00A).runState = .running ∧ (start 0xF00A).fetch = .ok 0xF00A ∧
    exec (.ldVxK 0) (start 0xF00A) = .next t ∧ t.runState = .running ∧ t.wait = true ∧
    (start 0x1200).fetch = .ok 0x1200 ∧ exec (.jp 0x200) (start 0x1200) = .next t' ∧ t'.runState = .running :=
  ⟨_, _, rfl, rfl, rfl, rfl, rfl, rfl, rfl, rfl⟩

/-- The states of a run from a self-jump. -/
def jumping (k : Nat) : State := Nat.rec { start 0x1200 with dt := 1 } (fun _ s => after s) k

/-- TimersDecayOverARun: two steps, the second with DT at 0. -/
theorem witness_timers_decay : IsRun jumping 2 ∧
    (∀ k < 2, (jumping k).runState = .running ∧ TickOn (jumping k) ∧ (jumping (k + 1)).runState = .running) ∧
    (∀ k < 2, (jumping k).nextDecoded = some (.instr (.jp 0x200))) := by
  refine ⟨fun k hk => ?_, fun k hk => ?_, fun k hk => ?_⟩ <;> interval_cases k
  · rfl
  · rfl
  · exact ⟨rfl, .inl rfl, rfl⟩
  · exact ⟨rfl, .inl rfl, rfl⟩
  · rfl
  · rfl

/-- SelfJumpRepeatsForever. -/
theorem witness_self_jump : (start 0x1200).AtSelfJump := ⟨rfl, 0x200, rfl, rfl⟩

/-- CallPushesItsOwnAddress, ReturnPopsAndAdvancesByTwo, StackFaultsHaltTheCore: SP at the ends of each clause. -/
theorem witness_stack : ({ State.reset with sp := 15 } : State).sp.val ≤ 15 ∧ 1 ≤ ({ State.reset with sp := 16 } : State).sp.val ∧
    ({ State.reset with sp := 16 } : State).sp.val - 1 < 16 ∧ 1 ≤ ({ State.reset with sp := 1 } : State).sp.val ∧
    ({ State.reset with sp := 16 } : State).sp.val = 16 ∧ State.reset.sp.val = 0 := by decide

/-- CallThenReturnLandsAfterTheCall. -/
theorem witness_call_return : ∃ s : State, s.runState = .running ∧ s.sp.val = 15 ∧ s.fetch = .ok 0x2FFE ∧
    decode s.cfg.decodeMode 0x2FFE = .instr (.call 0xFFE) ∧ (0xFFE : Imm12).toNat ≤ 4094 ∧
    decode s.cfg.decodeMode (wordOfBytes (s.readByte 0xFFE) (s.readByte 0xFFF)) = .instr .ret :=
  ⟨{ (start 0x2FFE).writeByte 0xFFF 0xEE with sp := 15 }, rfl, rfl, rfl, rfl, by decide, rfl⟩

/-- AddSetsCarry, SubtractionsSetNotBorrow, ShiftsLeaveTheBitShiftedOut: a destination that is not VF, and a source. -/
theorem witness_alu : (0 : Reg) ≠ regF ∧
    (∃ src : Nat, src = match State.reset.cfg.shiftSource with
      | .x => (State.reset.readV 0).toNat
      | .y => (State.reset.readV 1).toNat) ∧
    (∃ src : Nat, src = match (State.resetWith shiftY).cfg.shiftSource with
      | .x => (State.reset.readV 0).toNat
      | .y => (State.reset.readV 1).toNat) := ⟨by decide, ⟨_, rfl⟩, ⟨_, rfl⟩⟩

/-- AddToIndexAndGlyphAddress. -/
theorem witness_glyph : State.reset.cfg.wellFormed = true := by decide

/-- DecimalDigitsStored, RegistersStoredToMemory, RegistersLoadedFromMemory: the last transfers in range. -/
theorem witness_transfers_in_range : ({ State.reset with i := 0xFFD } : State).i.toNat + 2 ≤ 4095 ∧
    ({ State.reset with i := 0xFF0 } : State).i.toNat + (15 : Reg).toNat ≤ 4095 ∧
    ({ State.reset with i := 0xFFF } : State).i.toNat + (0 : Reg).toNat ≤ 4095 := by decide

/-- TransfersOutOfRangeFault: the first transfers out of range, and the last. -/
theorem witness_transfers_out_of_range : 4095 < ({ State.reset with i := 0xFFE } : State).i.toNat + 2 ∧
    4095 < ({ State.reset with i := 0xFF1 } : State).i.toNat + (15 : Reg).toNat ∧
    (0 < (1 : Imm4).toNat ∧ 4095 < ({ State.reset with i := 0x1000 } : State).i.toNat + (1 : Imm4).toNat - 1) ∧
    4095 < ({ State.reset with i := 0xFFFF } : State).i.toNat + (0 : Reg).toNat := by decide

/-- DrawXorsTheSpriteAndReportsCollision: height 0 anywhere, the last sprite in range; a covered pixel and one that is not. -/
theorem witness_draw_range : ((0 : Imm4).toNat = 0) ∧
    ({ State.reset with i := 0xFF1 } : State).i.toNat + (15 : Imm4).toNat - 1 ≤ 4095 := by decide

/-- A state that draws one pixel at the origin, lit already. -/
def drawing : State := light ({ start 0xD011 with i := 0x300 }.writeByte 0x300 0x80) 0 0
theorem witness_draw_covers : SpriteCovers drawing 0 1 1 0 0 ∧ pixel drawing.fb 0 0 = true ∧ ¬SpriteCovers drawing 0 1 1 1 0 := by
  refine ⟨⟨0, 0, by decide, by decide, by decide, by decide, by rfl⟩, by decide, ?_⟩
  rintro ⟨k, j, hk, -, -, -, hr⟩
  have hk : k < 1 := hk
  have hr : (drawing.readV 1).toNat % 32 + k = 1 := hr
  have hv : (drawing.readV 1).toNat = 0 := by decide
  omega

/-- DrawXorsTheSpriteAndReportsCollision: its last clause, no lit pixel covered. -/
theorem witness_draw_no_collision : ¬∃ r c, SpriteCovers State.reset 0 1 0 r c ∧ pixel State.reset.fb r c = true := by
  rintro ⟨r, c, ⟨k, j, hk, -⟩, -⟩
  exact absurd hk (Nat.not_lt_zero k)

/-- DrawTwiceRestoresTheScreen: two draws over a lit pixel, and over an unlit screen. -/
theorem witness_draw_twice : ∃ t u, drawing.runState = .running ∧ exec (.drw 0 1 1) drawing = .next t ∧ t.runState = .running ∧
    t.readV 0 = drawing.readV 0 ∧ t.readV 1 = drawing.readV 1 ∧ exec (.drw 0 1 1) t = .next u :=
  ⟨_, _, rfl, rfl, rfl, rfl, rfl, rfl⟩
theorem witness_draw_twice_unlit : ∃ t u, exec (.drw 0 1 1) State.reset = .next t ∧ t.runState = .running ∧
    exec (.drw 0 1 1) t = .next u ∧ ∀ r c, SpriteCovers State.reset 0 1 1 r c → pixel State.reset.fb r c = false := by
  refine ⟨_, _, rfl, rfl, rfl, fun r c _ => ?_⟩
  simp [State.reset, State.resetWith, pixel]

/-- KeyWaitCompletesWithTheLowestKey: in EDGE mode the highest key, in LEVEL mode the lowest. -/
theorem witness_key_edge : ∃ s : State, s.cfg.keyWaitTrigger = .edge ∧ KeyQualifies s 15 ∧ ∀ j < 15, ¬KeyQualifies s j := by
  refine ⟨{ State.reset with wait := true, kprev := 0x0001, inputs := [keys [0, 15]] }, rfl, ⟨by decide, by decide, by decide, by decide⟩, ?_⟩
  rintro j hj ⟨-, hp, -, hk⟩
  interval_cases j <;> revert hp hk <;> decide
theorem witness_key_level : ∃ s : State, s.cfg.keyWaitTrigger = .level ∧ KeyQualifies s 0 ∧ ∀ j < 0, ¬KeyQualifies s j :=
  ⟨{ State.resetWith level with inputs := [keys [0]] }, rfl, ⟨by decide, by decide, trivial⟩, fun _ h => absurd h (Nat.not_lt_zero _)⟩

/-- KeyWaitWithoutAKeyStaysWaiting: in EDGE mode the first cycle of a wait, in LEVEL mode no key. -/
theorem witness_no_key_edge : ∃ s : State, s.cfg.keyWaitTrigger = .edge ∧ ∀ k, ¬KeyQualifies s k :=
  ⟨{ State.reset with inputs := [keys [5]] }, rfl, fun _ h => Bool.noConfusion h.2.2.1⟩
theorem witness_no_key_level : ∃ s : State, s.cfg.keyWaitTrigger = .level ∧ ∀ k, ¬KeyQualifies s k := by
  refine ⟨{ State.resetWith level with inputs := [quiet] }, rfl, fun k h => ?_⟩
  have h' : (0 : Keypad).getLsbD k = true := h.2.1
  simp at h'

/-- OnlyTheseInstructionsFault: each raiser at the edge, from a running core. -/
theorem witness_only_these_fault : ∃ t1 t2 t3 t4 t5 t6,
    exec .ret State.reset = .next t1 ∧ exec (.call 0x300) { State.reset with sp := 16 } = .next t2 ∧
    exec (.drw 0 0 2) { State.reset with i := 0xFFF } = .next t3 ∧ exec (.ldBVx 0) { State.reset with i := 0xFFE } = .next t4 ∧
    exec (.ldMemVx 1) { State.reset with i := 0xFFF } = .next t5 ∧ exec (.ldVxMem 1) { State.reset with i := 0xFFF } = .next t6 ∧
    [t1, t2, t3, t4, t5, t6].map (·.runState) = List.replicate 6 .halted :=
  ⟨_, _, _, _, _, _, rfl, rfl, rfl, rfl, rfl, rfl, rfl⟩

/-- HaltedIsAbsorbing: a run of two halted cycles. -/
def stopped (k : Nat) : State := Nat.rec halted (fun _ s => s.haltedCycle) k
theorem witness_halted_run : IsRun stopped 2 ∧ (stopped 0).runState = .halted := by
  refine ⟨fun k hk => ?_, by decide⟩
  interval_cases k <;> rfl

/-- StackAndScreenWriters: steps that change SP and a pixel. -/
theorem witness_stack_and_screen_writers : ∃ u v, step (start 0x2300) = .next u ∧ u.sp ≠ (start 0x2300).sp ∧
    step drawing = .next v ∧ v.fb ≠ drawing.fb := by
  refine ⟨_, _, rfl, by decide, rfl, fun h => ?_⟩
  exact absurd (congrArg (fun f => pixel f 0 0) h) (by decide)

/-- MemoryIndexAndWaitWriters: steps that change a byte, I, and WAIT. -/
theorem witness_memory_index_and_wait_writers : ∃ s t u v, step s = .next u ∧ u.readByte 0x300 ≠ s.readByte 0x300 ∧
    step (start 0xA300) = .next t ∧ t.i ≠ (start 0xA300).i ∧ step (start 0xF00A) = .next v ∧ v.wait ≠ (start 0xF00A).wait :=
  ⟨setV { start 0xF055 with i := 0x300 } 0 7, _, _, _, rfl, by decide, rfl, by decide, rfl, by decide⟩

/-- FlagRegisterWriters: an addition that carries. -/
theorem witness_flag_writer : ∃ t, exec (.addReg 0 1) (setV (setV State.reset 0 0xFF) 1 1) = .next t ∧
    t.readV regF ≠ (setV (setV State.reset 0 0xFF) 1 1).readV regF := ⟨_, rfl, by decide⟩

/-- InputsReadOnlyWhereTheSpecSays: for a key test, two inputs that differ in RND; for Cxkk, two that differ in KEY. -/
theorem witness_inputs : ∃ (s t u : State) (l m : List CycleInput),
    ({ s with inputs := l } : State).input.key = s.input.key ∧ l ≠ s.inputs ∧ exec (.skp 0) s = .next t ∧
    ({ s with inputs := m } : State).input.rnd = s.input.rnd ∧ m ≠ s.inputs ∧ exec (.rnd 0 0xFF) s = .next u :=
  ⟨{ State.reset with inputs := [⟨1, false, 2⟩] }, _, _, [⟨1, true, 3⟩], [⟨0, true, 2⟩], rfl, by decide, rfl, rfl, by decide, rfl⟩

/-- StepKeepsMemoryCanonical, StepKeepsFaultRecordConsistent, StepKeepsWaitAtAKeyWait: a step of a state with each invariant. -/
theorem witness_invariants : ∃ u, (start 0xF00A).MemoryCanonical ∧ (start 0xF00A).FaultRecordConsistent ∧
    (start 0xF00A).WaitAtKeyWait ∧ step (start 0xF00A) = .next u ∧ u.wait = true :=
  ⟨_, by unfold State.MemoryCanonical; decide, ⟨rfl, rfl, rfl⟩, fun h => Bool.noConfusion h, rfl, rfl⟩

/-- The invariants in a halted state and in a wait. -/
theorem witness_invariants_halted : halted.FaultRecordConsistent ∧ (after (start 0xF00A)).WaitAtKeyWait :=
  ⟨⟨rfl, rfl⟩, fun _ => ⟨0, rfl⟩⟩

end Sys2Proof.Tests
end

/-! The state after reset (10_state.md R58): what its registers and its stack read, and that the machine's reset state
and every state RESET makes are one shape. -/

namespace Sys2Proof.Machine

open Sys2Proof

/-- The reset state of `c` with inputs `l` supplied, at cycle `n`: RESET writes neither of the two (R370). -/
def State.resetAt (c : Config) (l : List CycleInput) (n : Nat) : State :=
  { State.resetWith c with inputs := l, cycleNo := n }

theorem State.reset_eq_resetAt : State.reset = State.resetAt Config.default [] 0 := rfl

theorem State.hostReset_eq_resetAt (s : State) : s.hostReset = State.resetAt s.cfg s.inputs s.cycleNo := rfl

/-- The machine's reset state and every state RESET makes are a `resetAt`, so a fact about `resetAt` covers both. -/
theorem State.exists_eq_resetAt {t : State} (h : t = State.reset ∨ ∃ s : State, t = s.hostReset) :
    ∃ c l n, t = State.resetAt c l n := by
  obtain rfl | ⟨s, rfl⟩ := h
  · exact ⟨_, _, _, State.reset_eq_resetAt⟩
  · exact ⟨_, _, _, s.hostReset_eq_resetAt⟩

/-- 10_state.md R33, and R35 for VF. -/
@[simp] theorem State.readV_resetAt (c : Config) (l : List CycleInput) (n : Nat) (r : Reg) :
    (State.resetAt c l n).readV r = 0x00 :=
  Vector.getElem_replicate _

/-- 10_state.md R44. -/
@[simp] theorem State.stack_resetAt (c : Config) (l : List CycleInput) (n k : Nat) (h : k < 16) :
    (State.resetAt c l n).stack[k] = 0x0000 :=
  Vector.getElem_replicate _

/-- Settles O7: registers and stack entries read 0 by the lemmas on `resetAt`; I, PC, SP and the timers are its fields. -/
theorem resetClearsRegistersStackTimersIndex : Obligations.ResetClearsRegistersStackTimersIndex := by
  intro t ht
  obtain ⟨c, l, n, rfl⟩ := State.exists_eq_resetAt ht
  exact ⟨State.readV_resetAt c l n, State.readV_resetAt c l n regF, rfl, rfl, rfl, State.stack_resetAt c l n, rfl, rfl⟩

end Sys2Proof.Machine

/-! The fetch inside memory (20_memory.md R84, R110): the two bytes of an instruction word, each read back from it. -/

namespace Sys2Proof.Machine

open Sys2Proof

/-- The first byte is bits 15 to 8 of the word. -/
theorem wordOfBytes_toNat_div (hi lo : Byte) : (wordOfBytes hi lo).toNat / 256 = hi.toNat := by
  have hlo : lo.toNat < 256 := lo.isLt
  rw [wordOfBytes_toNat]
  omega

/-- The second byte is bits 7 to 0 of the word. -/
theorem wordOfBytes_toNat_mod (hi lo : Byte) : (wordOfBytes hi lo).toNat % 256 = lo.toNat := by
  have hlo : lo.toNat < 256 := lo.isLt
  rw [wordOfBytes_toNat]
  omega

/-- Settles O13: inside memory the fetch is the word of the bytes at PC and PC + 1, and the two bytes read back from it. -/
theorem fetchIsBigEndian : Obligations.FetchIsBigEndian := by
  intro s hpc
  exact ⟨_, State.fetch_eq_ok.2 ⟨hpc, rfl⟩, wordOfBytes_toNat_div _ _, wordOfBytes_toNat_mod _ _⟩

end Sys2Proof.Machine

/-! The two families dispatched on the low byte (30_encoding.md R118, R119): the fields of R111 as numbers, and each
family's decoder as a chain of tests of the low byte. -/

namespace Sys2Proof.Machine

open Sys2Proof

theorem fieldH_toNat (op : Word) : (fieldH op).toNat = hiNibble op := by
  have hop : op.toNat < 65536 := op.isLt
  simp only [fieldH, hiNibble, BitVec.extractLsb'_toNat, Nat.shiftRight_eq_div_pow]
  omega

theorem fieldKK_toNat (op : Word) : (fieldKK op).toNat = loByte op := by
  simp [fieldKK, loByte]

theorem fieldX_eq_numX (op : Word) : fieldX op = numX op := by
  simp [fieldX, numX, ← BitVec.toNat_inj, Nat.shiftRight_eq_div_pow]

theorem decode_of_hiNibble_eq_14 (mode : DecodeMode) {op : Word} (h : hiNibble op = 14) :
    decode mode op = decodeFamilyE op := by
  rw [decode, fieldH_toNat, h]
  rfl

theorem decode_of_hiNibble_eq_15 (mode : DecodeMode) {op : Word} (h : hiNibble op = 15) :
    decode mode op = decodeFamilyF op := by
  rw [decode, fieldH_toNat, h]
  rfl

/-- 30_encoding.md R118. -/
theorem decodeFamilyE_eq (op : Word) : decodeFamilyE op =
    if loByte op = 0x9E then .instr (.skp (numX op))
    else if loByte op = 0xA1 then .instr (.sknp (numX op))
    else .unknown op := by
  rw [decodeFamilyE, fieldKK_toNat, fieldX_eq_numX]
  generalize loByte op = kk
  split
  · rfl
  · rfl
  · next h9E hA1 => rw [if_neg h9E, if_neg hA1]

/-- 30_encoding.md R119. -/
theorem decodeFamilyF_eq (op : Word) : decodeFamilyF op =
    if loByte op = 0x07 then .instr (.ldVxDt (numX op))
    else if loByte op = 0x0A then .instr (.ldVxK (numX op))
    else if loByte op = 0x15 then .instr (.ldDtVx (numX op))
    else if loByte op = 0x18 then .instr (.ldStVx (numX op))
    else if loByte op = 0x1E then .instr (.addIVx (numX op))
    else if loByte op = 0x29 then .instr (.ldFVx (numX op))
    else if loByte op = 0x33 then .instr (.ldBVx (numX op))
    else if loByte op = 0x55 then .instr (.ldMemVx (numX op))
    else if loByte op = 0x65 then .instr (.ldVxMem (numX op))
    else .unknown op := by
  rw [decodeFamilyF, fieldKK_toNat, fieldX_eq_numX]
  generalize loByte op = kk
  split
  case h_10 h07 h0A h15 h18 h1E h29 h33 h55 h65 =>
    rw [if_neg h07, if_neg h0A, if_neg h15, if_neg h18, if_neg h1E, if_neg h29, if_neg h33, if_neg h55, if_neg h65]
  all_goals rfl

/-- Settles O5: the high nibble selects the family's decoder in both modes, and that decoder is the chain over the low byte. -/
theorem familiesEAndFDispatchOnLowByte : Obligations.FamiliesEAndFDispatchOnLowByte := by
  intro mode op
  constructor
  · intro h
    rw [decode_of_hiNibble_eq_14 mode h, decodeFamilyE_eq]
  · intro h
    rw [decode_of_hiNibble_eq_15 mode h, decodeFamilyF_eq]

end Sys2Proof.Machine

/-! Jumps and skips (41_control_flow.md R182, R184 to R189): what a write of PC leaves unchanged, and the skip law. -/

namespace Sys2Proof.Machine

open Sys2Proof

/-- A write of PC alone keeps the whole frame. -/
theorem State.frame_setPc (s : State) (a : Word) : Frame [] [] s (s.setPc a) where
  v _ _ := rfl
  i _ := rfl
  stack _ := ⟨rfl, rfl⟩
  dt _ := rfl
  st _ := rfl
  fb _ := rfl
  mem _ _ := rfl
  keyWait _ := ⟨rfl, rfl⟩
  fault _ := ⟨rfl, rfl, rfl, rfl⟩
  own := ⟨rfl, rfl, rfl, rfl⟩

/-- 41_control_flow.md R189, second sentence. -/
theorem State.frame_skipIf (s : State) (c : Bool) : Frame [] [] s (s.skipIf c) := s.frame_setPc _

/-- 41_control_flow.md R189: a skip on `p`, PC as a number modulo 65536. -/
theorem State.skipIf_pc_toNat (s : State) {c : Bool} {p : Prop} [Decidable p] (hc : c = true ↔ p) :
    (s.skipIf c).pc.toNat = (s.pc.toNat + if p then 4 else 2) % 65536 := by
  simp only [State.skipIf_pc, BitVec.toNat_add, hc]
  split <;> rfl

/-- 41_control_flow.md R189: a skip on the negation of `p`. -/
theorem State.skipIf_pc_toNat_of_not (s : State) {c : Bool} {p : Prop} [Decidable p] (hc : c = true ↔ ¬p) :
    (s.skipIf c).pc.toNat = (s.pc.toNat + if p then 2 else 4) % 65536 := by
  rw [s.skipIf_pc_toNat hc, ite_not]

/-- The byte comparison of SE is the comparison of the unsigned values (R184). -/
theorem byte_beq_iff_toNat_eq (a b : Byte) : (a == b) = true ↔ a.toNat = b.toNat :=
  beq_iff_eq.trans BitVec.toNat_inj.symm

/-- The byte comparison of SNE is the comparison of the unsigned values (R185). -/
theorem byte_bne_iff_toNat_ne (a b : Byte) : (a != b) = true ↔ ¬a.toNat = b.toNat :=
  bne_iff_ne.trans (not_congr BitVec.toNat_inj.symm)

/-- The sum of Bnnn is at most 0x10FE, so 16 bits hold it without a wrap (41_control_flow.md R188). -/
theorem zext16_add_zextReg_toNat (nnn : Imm12) (b : Byte) :
    (zext16 nnn + zextReg b).toNat = nnn.toNat + b.toNat := by
  rw [BitVec.toNat_add, zext16_toNat, zextReg_toNat]
  exact Nat.mod_eq_of_lt (by omega)

/-- Settles O23: both jumps write PC alone, and neither address wraps in 16 bits. -/
theorem jumpsSetThePc : Obligations.JumpsSetThePc := by
  intro nnn s
  exact ⟨⟨_, rfl, zext16_toNat nnn, s.frame_setPc _⟩,
    ⟨_, rfl, zext16_add_zextReg_toNat nnn (s.readV 0), s.frame_setPc _⟩⟩

/-- Settles O27: each is a skip on the comparison of two bytes, so the skip law gives its PC and its frame. -/
theorem registerSkipsAdvanceByFourOrTwo : Obligations.RegisterSkipsAdvanceByFourOrTwo := by
  intro x y kk s
  refine ⟨?seImm, ?sneImm, ?seReg, ?sneReg⟩
  case seImm => exact ⟨_, rfl, s.frame_skipIf _, s.skipIf_pc_toNat (byte_beq_iff_toNat_eq _ _)⟩
  case sneImm => exact ⟨_, rfl, s.frame_skipIf _, s.skipIf_pc_toNat_of_not (byte_bne_iff_toNat_ne _ _)⟩
  case seReg => exact ⟨_, rfl, s.frame_skipIf _, s.skipIf_pc_toNat (byte_beq_iff_toNat_eq _ _)⟩
  case sneReg => exact ⟨_, rfl, s.frame_skipIf _, s.skipIf_pc_toNat_of_not (byte_bne_iff_toNat_ne _ _)⟩

end Sys2Proof.Machine

/-! The immediate load and add (42_alu.md R210, R211): what a register write leaves unchanged, and the advance of PC
after it. -/

namespace Sys2Proof.Machine

open Sys2Proof

/-- A write of V[x] keeps everything but V[x]. -/
theorem State.frame_writeV (s : State) (x : Reg) (b : Byte) : Frame [x] [] s (s.writeV x b) where
  v _ hr := s.readV_writeV_ne b (List.ne_of_not_mem_cons hr)
  i _ := rfl
  stack _ := ⟨rfl, rfl⟩
  dt _ := rfl
  st _ := rfl
  fb _ := rfl
  mem _ _ := rfl
  keyWait _ := ⟨rfl, rfl⟩
  fault _ := ⟨rfl, rfl, rfl, rfl⟩
  own := ⟨rfl, rfl, rfl, rfl⟩

/-- No frame speaks of PC, so the advance keeps every frame. -/
theorem Frame.advance {regs : List Reg} {parts : List Part} {s t : State} (h : Frame regs parts s t) :
    Frame regs parts s t.advance :=
  { h with }

/-- Settles O30: each writes V[x] once and advances, so the read after the write gives the value for x = F as well;
the 8-bit sum is the sum of the unsigned values modulo 256. -/
theorem immediateLoadAndAdd : Obligations.ImmediateLoadAndAdd := by
  intro x kk s
  refine ⟨⟨_, rfl, ?load, rfl, (s.frame_writeV x _).advance⟩, ⟨_, rfl, ?add, rfl, (s.frame_writeV x _).advance⟩⟩
  case load => exact s.readV_writeV_same x kk
  case add =>
    have hx := s.readV_writeV_same x (s.readV x + kk)
    exact (congrArg BitVec.toNat hx).trans (BitVec.toNat_add _ _)

end Sys2Proof.Machine

/-! The immediate load of I (43_index_memory.md R251): what a write of I leaves unchanged. -/

namespace Sys2Proof.Machine

open Sys2Proof

/-- A write of I keeps everything but I. -/
theorem State.frame_setI (s : State) (a : Word) : Frame [] [.i] s (s.setI a) where
  v r _ := s.setI_readV a r
  i hi := absurd (List.mem_singleton_self Part.i) hi
  stack _ := ⟨rfl, rfl⟩
  dt _ := rfl
  st _ := rfl
  fb _ := rfl
  mem _ := s.setI_readByte a
  keyWait _ := ⟨rfl, rfl⟩
  fault _ := ⟨rfl, rfl, rfl, rfl⟩
  own := ⟨rfl, rfl, rfl, rfl⟩

/-- Settles O36: the instruction is one write of I and the advance; zero extension keeps the number for every nnn. -/
theorem loadIndexImmediate : Obligations.LoadIndexImmediate := by
  intro nnn s
  have hframe : Frame [] [.i] s (s.setI (zext16 nnn)).advance := (s.frame_setI _).advance
  exact ⟨_, rfl, zext16_toNat nnn, rfl, hframe⟩

end Sys2Proof.Machine

/-! The clear of the screen (44_display.md R280): what a write of FB leaves unchanged. -/

namespace Sys2Proof.Machine

open Sys2Proof

/-- A write of FB keeps everything but FB. -/
theorem State.frame_setFb (s : State) (f : Framebuffer) : Frame [] [.fb] s (s.setFb f) where
  v r _ := s.setFb_readV f r
  i _ := rfl
  stack _ := ⟨rfl, rfl⟩
  dt _ := rfl
  st _ := rfl
  fb hfb := absurd (List.mem_singleton_self Part.fb) hfb
  mem _ := s.setFb_readByte f
  keyWait _ := ⟨rfl, rfl⟩
  fault _ := ⟨rfl, rfl, rfl, rfl⟩
  own := ⟨rfl, rfl, rfl, rfl⟩

/-- Settles O42: CLS is one write of the clear framebuffer and the advance, whatever the screen showed before. -/
theorem clearScreenUnlightsEveryPixel : Obligations.ClearScreenUnlightsEveryPixel := by
  intro s
  have hframe : Frame [] [.fb] s (s.setFb clearFramebuffer).advance := (s.frame_setFb _).advance
  exact ⟨_, rfl, pixel_clearFramebuffer, rfl, hframe⟩

end Sys2Proof.Machine

/-! The timer transfers (45_keypad_timers.md R303, R305, R306): what a write of DT and a write of ST leave unchanged. -/

namespace Sys2Proof.Machine

open Sys2Proof

/-- A write of DT keeps everything but DT. -/
theorem State.frame_setDt (s : State) (b : Byte) : Frame [] [.dt] s (s.setDt b) where
  v r _ := s.setDt_readV b r
  i _ := rfl
  stack _ := ⟨rfl, rfl⟩
  dt hdt := absurd (List.mem_singleton_self Part.dt) hdt
  st _ := rfl
  fb _ := rfl
  mem _ := s.setDt_readByte b
  keyWait _ := ⟨rfl, rfl⟩
  fault _ := ⟨rfl, rfl, rfl, rfl⟩
  own := ⟨rfl, rfl, rfl, rfl⟩

/-- A write of ST keeps everything but ST. -/
theorem State.frame_setSt (s : State) (b : Byte) : Frame [] [.st] s (s.setSt b) where
  v r _ := s.setSt_readV b r
  i _ := rfl
  stack _ := ⟨rfl, rfl⟩
  dt _ := rfl
  st hst := absurd (List.mem_singleton_self Part.st) hst
  fb _ := rfl
  mem _ := s.setSt_readByte b
  keyWait _ := ⟨rfl, rfl⟩
  fault _ := ⟨rfl, rfl, rfl, rfl⟩
  own := ⟨rfl, rfl, rfl, rfl⟩

/-- Settles O45: each is one write, of V[x], DT or ST, and the advance; none of the three ticks a timer, so the value
read is the one before this cycle's tick (R149). -/
theorem timerInstructionsMoveTheTimers : Obligations.TimerInstructionsMoveTheTimers := by
  intro x s
  refine ⟨?readDt, ?writeDt, ?writeSt⟩
  case readDt => exact ⟨_, rfl, s.readV_writeV_same x s.dt, rfl, (s.frame_writeV x _).advance⟩
  case writeDt => exact ⟨_, rfl, rfl, rfl, (s.frame_setDt _).advance⟩
  case writeSt => exact ⟨_, rfl, rfl, rfl, (s.frame_setSt _).advance⟩

end Sys2Proof.Machine

/-! The encoding (30_encoding.md R112, R116, R117, R120 to R122): each family's decoder, that decode undoes encode, and
which words each mode recognizes. -/

namespace Sys2Proof.Machine

open Sys2Proof

theorem fieldN_toNat (op : Word) : (fieldN op).toNat = loNibble op := by
  simp [fieldN, loNibble]

theorem fieldY_eq_numY (op : Word) : fieldY op = numY op := by
  simp [fieldY, numY, ← BitVec.toNat_inj, Nat.shiftRight_eq_div_pow]

theorem hiNibble_lt (op : Word) : hiNibble op < 16 := by
  have hop : op.toNat < 65536 := op.isLt
  unfold hiNibble
  omega

/-! ### The family of a word built from a format selects its decoder (R122) -/

theorem decode_wordXYN_8 (mode : DecodeMode) (x y n : BitVec 4) :
    decode mode (wordXYN 0x8 x y n) = decodeFamily8 (wordXYN 0x8 x y n) := by
  rw [decode, fieldH_wordXYN]
  rfl

theorem decode_wordXKK_E (mode : DecodeMode) (x : Reg) (kk : Imm8) :
    decode mode (wordXKK 0xE x kk) = decodeFamilyE (wordXKK 0xE x kk) := by
  rw [decode, fieldH_wordXKK]
  rfl

theorem decode_wordXKK_F (mode : DecodeMode) (x : Reg) (kk : Imm8) :
    decode mode (wordXKK 0xF x kk) = decodeFamilyF (wordXKK 0xF x kk) := by
  rw [decode, fieldH_wordXKK]
  rfl

/-- A low nibble of 0 is recognized in both modes (R120). -/
theorem decodeLowNibble_of_fieldN_eq_zero (mode : DecodeMode) {op : Word} (i : Instr) (h : fieldN op = 0) :
    decodeLowNibble mode op i = .instr i := by
  cases mode
  · exact if_pos h
  · rfl

/-- Settles O1: decode reads back the fields the instruction's format wrote, family by family. -/
theorem decodeOfEncodeIsTheInstruction : Obligations.DecodeOfEncodeIsTheInstruction := by
  intro mode i
  cases i <;> rw [encode]
  case cls | ret => cases mode <;> decide
  case ldReg | orReg | andReg | xorReg | addReg | sub | shr | subn | shl =>
    rw [decode_wordXYN_8]; simp [decodeFamily8]
  case skp | sknp => rw [decode_wordXKK_E]; simp [decodeFamilyE]
  case ldVxDt | ldVxK | ldDtVx | ldStVx | addIVx | ldFVx | ldBVx | ldMemVx | ldVxMem =>
    rw [decode_wordXKK_F]; simp [decodeFamilyF]
  case seReg | sneReg => simp [decode, decodeLowNibble_of_fieldN_eq_zero]
  all_goals simp [decode]

/-- Settles O6: the decoder evaluated on the nine words. -/
theorem wordsOfTheSpecDecode : Obligations.WordsOfTheSpecDecode := by
  unfold Obligations.WordsOfTheSpecDecode
  decide

end Sys2Proof.Machine

namespace Sys2Proof.Machine

open Sys2Proof

/-! ### A word is its family and the rest of its format -/

theorem fieldH_eq_of_toNat {op : Word} {h : BitVec 4} (hh : (fieldH op).toNat = h.toNat) : h = fieldH op :=
  (BitVec.eq_of_toNat_eq hh).symm

theorem wordNNN_of_fieldH {op : Word} {h : BitVec 4} (hh : (fieldH op).toNat = h.toNat) :
    wordNNN h (fieldNNN op) = op := by
  rw [fieldH_eq_of_toNat hh, wordNNN_fields]

theorem wordXKK_of_fields {op : Word} {h : BitVec 4} {kk : Imm8} (hh : (fieldH op).toNat = h.toNat)
    (hkk : (fieldKK op).toNat = kk.toNat) : wordXKK h (fieldX op) kk = op := by
  rw [fieldH_eq_of_toNat hh, ← BitVec.eq_of_toNat_eq hkk, wordXKK_fields]

theorem wordXYN_of_fields {op : Word} {h n : BitVec 4} (hh : (fieldH op).toNat = h.toNat)
    (hn : (fieldN op).toNat = n.toNat) : wordXYN h (fieldX op) (fieldY op) n = op := by
  rw [fieldH_eq_of_toNat hh, ← BitVec.eq_of_toNat_eq hn, wordXYN_fields]

/-! ### STRICT: a recognized word is the encoding of its instruction -/

theorem encode_of_decodeFamily0_strict {op : Word} {i : Instr} (h : decodeFamily0 .strict op = .instr i) :
    encode i = op := by
  simp only [decodeFamily0] at h
  split at h
  · obtain rfl := Decoded.instr.inj h
    exact Eq.symm ‹_›
  · split at h
    · obtain rfl := Decoded.instr.inj h
      exact Eq.symm ‹_›
    · cases h

theorem encode_of_decodeLowNibble_strict {op : Word} {i j : Instr} (hj : fieldN op = 0 → encode j = op)
    (h : decodeLowNibble .strict op j = .instr i) : encode i = op := by
  simp only [decodeLowNibble] at h
  split at h
  · obtain rfl := Decoded.instr.inj h
    exact hj ‹_›
  · cases h

theorem encode_of_decodeFamily8 {op : Word} {i : Instr} (hh : (fieldH op).toNat = 0x8)
    (h : decodeFamily8 op = .instr i) : encode i = op := by
  unfold decodeFamily8 at h
  split at h <;> cases h
  all_goals exact wordXYN_of_fields hh ‹_›

theorem encode_of_decodeFamilyE {op : Word} {i : Instr} (hh : (fieldH op).toNat = 0xE)
    (h : decodeFamilyE op = .instr i) : encode i = op := by
  unfold decodeFamilyE at h
  split at h <;> cases h
  all_goals exact wordXKK_of_fields hh ‹_›

theorem encode_of_decodeFamilyF {op : Word} {i : Instr} (hh : (fieldH op).toNat = 0xF)
    (h : decodeFamilyF op = .instr i) : encode i = op := by
  unfold decodeFamilyF at h
  split at h <;> cases h
  all_goals exact wordXKK_of_fields hh ‹_›

theorem encode_of_decode_strict {op : Word} {i : Instr} (h : decode .strict op = .instr i) : encode i = op := by
  have hlt : (fieldH op).toNat < 16 := (fieldH op).isLt
  unfold decode at h
  split at h
  case h_1 hh => exact encode_of_decodeFamily0_strict h
  case h_6 hh | h_10 hh =>
    refine encode_of_decodeLowNibble_strict (fun hn => ?_) h
    exact wordXYN_of_fields hh (congrArg BitVec.toNat hn)
  case h_9 hh => exact encode_of_decodeFamily8 hh h
  case h_15 hh => exact encode_of_decodeFamilyE hh h
  case h_16 =>
    have hh : (fieldH op).toNat = 0xF := by simp only [imp_false] at *; omega
    exact encode_of_decodeFamilyF hh h
  case h_2 hh | h_3 hh | h_11 hh | h_12 hh => cases h; exact wordNNN_of_fieldH hh
  case h_14 hh => cases h; exact wordXYN_of_fields hh rfl
  all_goals
    cases h
    exact wordXKK_of_fields ‹_› rfl

/-! ### FAMILY: three families read fewer bits -/

theorem decode_of_hiNibble_eq_0 (mode : DecodeMode) {op : Word} (h : hiNibble op = 0) :
    decode mode op = decodeFamily0 mode op := by
  rw [decode, fieldH_toNat, h]
  rfl

theorem decode_of_hiNibble_eq_5 (mode : DecodeMode) {op : Word} (h : hiNibble op = 5) :
    decode mode op = decodeLowNibble mode op (.seReg (numX op) (numY op)) := by
  rw [decode, fieldH_toNat, h, fieldX_eq_numX, fieldY_eq_numY]
  rfl

theorem decode_of_hiNibble_eq_8 (mode : DecodeMode) {op : Word} (h : hiNibble op = 8) :
    decode mode op = decodeFamily8 op := by
  rw [decode, fieldH_toNat, h]
  rfl

theorem decode_of_hiNibble_eq_9 (mode : DecodeMode) {op : Word} (h : hiNibble op = 9) :
    decode mode op = decodeLowNibble mode op (.sneReg (numX op) (numY op)) := by
  rw [decode, fieldH_toNat, h, fieldX_eq_numX, fieldY_eq_numY]
  rfl

theorem fieldKK_eq_iff {op : Word} {kk : Imm8} : fieldKK op = kk ↔ loByte op = kk.toNat := by
  rw [← BitVec.toNat_inj, fieldKK_toNat]

theorem decodeFamily0_family_eq (op : Word) : decodeFamily0 .family op =
    if loByte op = 0xE0 then .instr .cls else if loByte op = 0xEE then .instr .ret else .unknown op := by
  simp only [decodeFamily0, fieldKK_eq_iff]
  rfl

theorem decode_family_eq_strict {op : Word} (h : hiNibble op ∉ [0, 5, 9]) :
    decode .family op = decode .strict op := by
  rw [← fieldH_toNat] at h
  unfold decode
  split
  case h_1 hh | h_6 hh | h_10 hh => exact absurd h (by simp [hh])
  all_goals rfl

/-- Settles O2: STRICT keeps every bit of a recognized word, and FAMILY's three families read their fields. -/
theorem recognizedWordsCarryTheirOperands : Obligations.RecognizedWordsCarryTheirOperands := by
  refine ⟨fun op i => encode_of_decode_strict, fun op => ⟨?five, ?nine, ?zero, decode_family_eq_strict⟩⟩
  case five => exact decode_of_hiNibble_eq_5 .family
  case nine => exact decode_of_hiNibble_eq_9 .family
  case zero =>
    intro h
    rw [decode_of_hiNibble_eq_0 .family h, decodeFamily0_family_eq]

end Sys2Proof.Machine

namespace Sys2Proof.Machine

open Sys2Proof

/-! ### The words each family does not recognize (30_encoding.md section 4) -/

theorem decodeFamily0_strict_eq_unknown {op w : Word} : decodeFamily0 .strict op = .unknown w ↔
    w = op ∧ op.toNat ≠ 0x00E0 ∧ op.toNat ≠ 0x00EE := by
  have h0 : op = 0x00E0 ↔ op.toNat = 0x00E0 := BitVec.toNat_inj.symm
  have hE : op = 0x00EE ↔ op.toNat = 0x00EE := BitVec.toNat_inj.symm
  simp only [decodeFamily0, h0, hE]
  split_ifs <;> simp [*, eq_comm (a := op)]

theorem decodeFamily0_family_eq_unknown {op w : Word} : decodeFamily0 .family op = .unknown w ↔
    w = op ∧ loByte op ∉ [0xE0, 0xEE] := by
  rw [decodeFamily0_family_eq]
  split_ifs <;> simp [*, eq_comm (a := op)]

theorem decodeLowNibble_strict_eq_unknown {op w : Word} {i : Instr} : decodeLowNibble .strict op i = .unknown w ↔
    w = op ∧ loNibble op ≠ 0 := by
  have h0 : fieldN op = 0 ↔ loNibble op = 0 := by rw [← BitVec.toNat_inj, fieldN_toNat]; rfl
  simp only [decodeLowNibble, h0]
  split_ifs <;> simp [*, eq_comm (a := op)]

theorem decodeLowNibble_family_ne_unknown {op w : Word} {i : Instr} : decodeLowNibble .family op i ≠ .unknown w :=
  Decoded.noConfusion

theorem decodeFamily8_eq_unknown {op w : Word} : decodeFamily8 op = .unknown w ↔
    w = op ∧ loNibble op ∈ [8, 9, 10, 11, 12, 13, 15] := by
  have hlt : loNibble op < 16 := Nat.mod_lt _ (by decide)
  rw [decodeFamily8, fieldN_toNat]
  generalize loNibble op = n at hlt
  interval_cases n <;> simp [eq_comm]

theorem decodeFamilyE_eq_unknown {op w : Word} : decodeFamilyE op = .unknown w ↔
    w = op ∧ loByte op ∉ [0x9E, 0xA1] := by
  rw [decodeFamilyE_eq]
  split_ifs <;> simp [*, eq_comm (a := op)]

theorem decodeFamilyF_eq_unknown {op w : Word} : decodeFamilyF op = .unknown w ↔
    w = op ∧ loByte op ∉ [0x07, 0x0A, 0x15, 0x18, 0x1E, 0x29, 0x33, 0x55, 0x65] := by
  rw [decodeFamilyF_eq]
  split_ifs <;> simp [*, eq_comm (a := op)]

/-- The unknown words of STRICT, family by family. -/
theorem decode_strict_eq_unknown {op w : Word} : decode .strict op = .unknown w ↔ w = op ∧
    ((hiNibble op = 0 ∧ op.toNat ≠ 0x00E0 ∧ op.toNat ≠ 0x00EE) ∨
    ((hiNibble op = 5 ∨ hiNibble op = 9) ∧ loNibble op ≠ 0) ∨
    (hiNibble op = 8 ∧ loNibble op ∈ [8, 9, 10, 11, 12, 13, 15]) ∨
    (hiNibble op = 14 ∧ loByte op ∉ [0x9E, 0xA1]) ∨
    (hiNibble op = 15 ∧ loByte op ∉ [0x07, 0x0A, 0x15, 0x18, 0x1E, 0x29, 0x33, 0x55, 0x65])) := by
  have hlt := hiNibble_lt op
  rw [decode, fieldH_toNat]
  generalize hiNibble op = h at hlt
  interval_cases h <;> simp only [decodeFamily0_strict_eq_unknown, decodeLowNibble_strict_eq_unknown,
    decodeFamily8_eq_unknown, decodeFamilyE_eq_unknown, decodeFamilyF_eq_unknown] <;> simp

/-- The unknown words of FAMILY. -/
theorem decode_family_eq_unknown {op w : Word} : decode .family op = .unknown w ↔ w = op ∧
    ((hiNibble op = 0 ∧ loByte op ∉ [0xE0, 0xEE]) ∨
    (hiNibble op = 8 ∧ loNibble op ∈ [8, 9, 10, 11, 12, 13, 15]) ∨
    (hiNibble op = 14 ∧ loByte op ∉ [0x9E, 0xA1]) ∨
    (hiNibble op = 15 ∧ loByte op ∉ [0x07, 0x0A, 0x15, 0x18, 0x1E, 0x29, 0x33, 0x55, 0x65])) := by
  have hlt := hiNibble_lt op
  rw [decode, fieldH_toNat]
  generalize hiNibble op = h at hlt
  interval_cases h <;> simp only [decodeFamily0_family_eq_unknown, decodeLowNibble_family_ne_unknown,
    decodeFamily8_eq_unknown, decodeFamilyE_eq_unknown, decodeFamilyF_eq_unknown] <;> simp

theorem eq_of_decode_eq_unknown {mode : DecodeMode} {op w : Word} (h : decode mode op = .unknown w) : w = op := by
  cases mode
  · exact (decode_strict_eq_unknown.1 h).1
  · exact (decode_family_eq_unknown.1 h).1

/-- Settles O4: the unknown words of each mode, read off family by family. -/
theorem unknownWordsOfEachMode : Obligations.UnknownWordsOfEachMode := by
  refine ⟨fun mode op w => eq_of_decode_eq_unknown, fun op => ?strict, fun op => ?family⟩
  case strict => exact decode_strict_eq_unknown.trans (and_iff_right rfl)
  case family => exact decode_family_eq_unknown.trans (and_iff_right rfl)

end Sys2Proof.Machine

namespace Sys2Proof.Machine

open Sys2Proof

/-! ### The masks of the opcode table: the fields of a word that a row looks at -/

theorem wordXKK_toNat (h x : BitVec 4) (kk : Imm8) :
    (wordXKK h x kk).toNat = 4096 * h.toNat + 256 * x.toNat + kk.toNat := by
  have hh : (fieldH (wordXKK h x kk)).toNat = h.toNat := by rw [fieldH_wordXKK]
  have hx : (fieldX (wordXKK h x kk)).toNat = x.toNat := by rw [fieldX_wordXKK]
  have hk : (fieldKK (wordXKK h x kk)).toNat = kk.toNat := by rw [fieldKK_wordXKK]
  simp only [fieldH, fieldX, fieldKK, BitVec.extractLsb'_toNat, Nat.shiftRight_eq_div_pow] at hh hx hk
  omega

theorem wordXYN_toNat (h x y n : BitVec 4) :
    (wordXYN h x y n).toNat = 4096 * h.toNat + 256 * x.toNat + 16 * y.toNat + n.toNat := by
  have hh : (fieldH (wordXYN h x y n)).toNat = h.toNat := by rw [fieldH_wordXYN]
  have hx : (fieldX (wordXYN h x y n)).toNat = x.toNat := by rw [fieldX_wordXYN]
  have hy : (fieldY (wordXYN h x y n)).toNat = y.toNat := by rw [fieldY_wordXYN]
  have hn : (fieldN (wordXYN h x y n)).toNat = n.toNat := by rw [fieldN_wordXYN]
  simp only [fieldH, fieldX, fieldY, fieldN, BitVec.extractLsb'_toNat, Nat.shiftRight_eq_div_pow] at hh hx hy hn
  omega

theorem and_F000_toNat (op : Word) : (op &&& 0xF000).toNat = 4096 * hiNibble op := by
  calc (op &&& 0xF000).toNat = (wordXKK (fieldH op) 0 0).toNat := by
        rw [← wordXKK_mask _ (fieldX op) (fieldKK op), wordXKK_fields]
    _ = 4096 * hiNibble op := by rw [wordXKK_toNat, fieldH_toNat]; rfl

theorem and_F0FF_toNat (op : Word) : (op &&& 0xF0FF).toNat = 4096 * hiNibble op + loByte op := by
  calc (op &&& 0xF0FF).toNat = (wordXKK (fieldH op) 0 (fieldKK op)).toNat := by
        rw [← wordXKK_mask_sub _ (fieldX op), wordXKK_fields]
    _ = 4096 * hiNibble op + loByte op := by rw [wordXKK_toNat, fieldH_toNat, fieldKK_toNat]; rfl

theorem and_F00F_toNat (op : Word) : (op &&& 0xF00F).toNat = 4096 * hiNibble op + loNibble op := by
  calc (op &&& 0xF00F).toNat = (wordXYN (fieldH op) 0 0 (fieldN op)).toNat := by
        rw [← wordXYN_mask_sub _ (fieldX op) (fieldY op), wordXYN_fields]
    _ = 4096 * hiNibble op + loNibble op := by rw [wordXYN_toNat, fieldH_toNat, fieldN_toNat]; rfl

/-! A word matches a row exactly if it agrees with the row's pattern in the fields its mask keeps. -/

theorem matchesWord_F000 (v : Variant) (p op : Word) : OpcodeRow.matchesWord ⟨v, p, 0xF000#16⟩ op =
    decide (hiNibble op = p.toNat / 4096 ∧ 0 = p.toNat % 4096) := by
  show (op &&& 0xF000 == p) = _
  rw [beq_eq_decide, decide_eq_decide, ← BitVec.toNat_inj, and_F000_toNat]
  omega

theorem matchesWord_F0FF (v : Variant) (p op : Word) : OpcodeRow.matchesWord ⟨v, p, 0xF0FF#16⟩ op =
    decide (hiNibble op = p.toNat / 4096 ∧ loByte op = p.toNat % 4096) := by
  have hlt : loByte op < 256 := Nat.mod_lt _ (by decide)
  show (op &&& 0xF0FF == p) = _
  rw [beq_eq_decide, decide_eq_decide, ← BitVec.toNat_inj, and_F0FF_toNat]
  omega

theorem matchesWord_F00F (v : Variant) (p op : Word) : OpcodeRow.matchesWord ⟨v, p, 0xF00F#16⟩ op =
    decide (hiNibble op = p.toNat / 4096 ∧ loNibble op = p.toNat % 4096) := by
  have hlt : loNibble op < 16 := Nat.mod_lt _ (by decide)
  show (op &&& 0xF00F == p) = _
  rw [beq_eq_decide, decide_eq_decide, ← BitVec.toNat_inj, and_F00F_toNat]
  omega

theorem matchesWord_FFFF (v : Variant) (p op : Word) : OpcodeRow.matchesWord ⟨v, p, 0xFFFF#16⟩ op =
    decide (hiNibble op = p.toNat / 4096 ∧ op.toNat % 4096 = p.toNat % 4096) := by
  have hand : op &&& 0xFFFF = op := BitVec.and_allOnes
  show (op &&& 0xFFFF == p) = _
  rw [beq_eq_decide, decide_eq_decide, hand, ← BitVec.toNat_inj, hiNibble]
  omega

/-- The variants of those of some rows that a word matches. -/
def variantsIn (rows : List OpcodeRow) (op : Word) : List Variant :=
  rows.flatMap fun r => if r.matchesWord op then [r.variant] else []

/-- The variants of the rows an answer of decode stands for: its own, and none where the word is unknown. -/
def rowsOf : Decoded → List Variant
  | .instr i => [i.variant]
  | .unknown _ => []

@[simp] theorem rowsOf_instr (i : Instr) : rowsOf (.instr i) = [i.variant] := rfl

@[simp] theorem rowsOf_unknown (op : Word) : rowsOf (.unknown op) = [] := rfl

theorem variantsIn_append (rows rows' : List OpcodeRow) (op : Word) :
    variantsIn (rows ++ rows') op = variantsIn rows op ++ variantsIn rows' op :=
  List.flatMap_append

theorem tableVariants_eq_variantsIn (mode : DecodeMode) (op : Word) :
    tableVariants mode op = variantsIn (opcodeTable mode) op := by
  rw [tableVariants]
  induction opcodeTable mode with
  | nil => rfl
  | cons r rows ih => cases hr : r.matchesWord op <;> simp [variantsIn, hr, ih]

/-! What the families with a second field to look at answer, as conditions on that field. -/

theorem rowsOf_decodeFamily0_strict {op : Word} (h : hiNibble op = 0) : rowsOf (decodeFamily0 .strict op) =
    (if op.toNat % 4096 = 0x0E0 then [.cls] else []) ++ if op.toNat % 4096 = 0x0EE then [.ret] else [] := by
  have hmod : op.toNat % 4096 = op.toNat := by unfold hiNibble at h; omega
  simp only [decodeFamily0, ← BitVec.toNat_inj, hmod]
  split_ifs <;> simp_all [Instr.variant]

theorem rowsOf_decodeFamily0_family (op : Word) : rowsOf (decodeFamily0 .family op) =
    (if loByte op = 0xE0 then [.cls] else []) ++ if loByte op = 0xEE then [.ret] else [] := by
  rw [decodeFamily0_family_eq]
  split_ifs <;> simp_all [Instr.variant]

theorem rowsOf_decodeLowNibble_strict (op : Word) (i : Instr) : rowsOf (decodeLowNibble .strict op i) =
    if loNibble op = 0 then [i.variant] else [] := by
  simp only [decodeLowNibble, ← BitVec.toNat_inj, fieldN_toNat]
  split_ifs <;> simp_all

theorem rowsOf_decodeLowNibble_family (op : Word) (i : Instr) :
    rowsOf (decodeLowNibble .family op i) = [i.variant] := rfl

theorem rowsOf_decodeFamilyE (op : Word) : rowsOf (decodeFamilyE op) =
    (if loByte op = 0x9E then [.skp] else []) ++ if loByte op = 0xA1 then [.sknp] else [] := by
  rw [decodeFamilyE_eq]
  split_ifs <;> simp_all [Instr.variant]

/-! The four parts of the table: each matches the words of its own families only, and those as decode answers. -/

theorem variantsIn_rows0to7 (mode : DecodeMode) (op : Word) : variantsIn (opcodeRows0to7 mode) op =
    if hiNibble op < 8 then rowsOf (decode mode op) else [] := by
  have hlt := hiNibble_lt op
  rw [decode, fieldH_toNat]
  cases mode <;> interval_cases h : hiNibble op <;>
    simp [variantsIn, opcodeRows0to7, matchesWord_F000, matchesWord_F0FF, matchesWord_F00F, matchesWord_FFFF, h,
      rowsOf_decodeFamily0_strict, rowsOf_decodeFamily0_family, rowsOf_decodeLowNibble_strict,
      rowsOf_decodeLowNibble_family, Instr.variant]

theorem variantsIn_rows8 (op : Word) : variantsIn opcodeRows8 op =
    if hiNibble op = 8 then rowsOf (decodeFamily8 op) else [] := by
  by_cases h : hiNibble op = 8
  · rw [if_pos h, decodeFamily8]
    split <;> simp_all [variantsIn, opcodeRows8, matchesWord_F00F, ← fieldN_toNat, rowsOf, Instr.variant]
  · simp [variantsIn, opcodeRows8, matchesWord_F00F, h]

theorem variantsIn_rowsF (op : Word) : variantsIn opcodeRowsF op =
    if hiNibble op = 15 then rowsOf (decodeFamilyF op) else [] := by
  by_cases h : hiNibble op = 15
  · rw [if_pos h, decodeFamilyF]
    split <;> simp_all [variantsIn, opcodeRowsF, matchesWord_F0FF, ← fieldKK_toNat, rowsOf, Instr.variant]
  · simp [variantsIn, opcodeRowsF, matchesWord_F0FF, h]

theorem variantsIn_rows9toE (mode : DecodeMode) (op : Word) : variantsIn (opcodeRows9toE mode) op =
    if 9 ≤ hiNibble op ∧ hiNibble op < 15 then rowsOf (decode mode op) else [] := by
  have hlt := hiNibble_lt op
  rw [decode, fieldH_toNat]
  cases mode <;> interval_cases h : hiNibble op <;>
    simp [variantsIn, opcodeRows9toE, matchesWord_F000, matchesWord_F0FF, matchesWord_F00F, h,
      rowsOf_decodeLowNibble_strict, rowsOf_decodeLowNibble_family, rowsOf_decodeFamilyE, Instr.variant]

theorem tableVariants_eq_rowsOf (mode : DecodeMode) (op : Word) :
    tableVariants mode op = rowsOf (decode mode op) := by
  have hlt := hiNibble_lt op
  rw [tableVariants_eq_variantsIn, opcodeTable, variantsIn_append, variantsIn_append, variantsIn_append,
    variantsIn_rows0to7, variantsIn_rows8, variantsIn_rows9toE, variantsIn_rowsF]
  obtain h | h | h | h : hiNibble op < 8 ∨ hiNibble op = 8 ∨ (9 ≤ hiNibble op ∧ hiNibble op < 15) ∨ hiNibble op = 15 := by
    omega
  · simp [h, show hiNibble op ≠ 8 by omega, show ¬9 ≤ hiNibble op by omega, show hiNibble op ≠ 15 by omega]
  · simp [h, decode_of_hiNibble_eq_8 mode h]
  · simp [h, show ¬hiNibble op < 8 by omega, show hiNibble op ≠ 8 by omega, show hiNibble op ≠ 15 by omega]
  · simp [h, decode_of_hiNibble_eq_15 mode h]

/-- Settles O3: the four parts of the table cover the families, each family in one part. -/
theorem decodeAgreesWithOpcodeTable : Obligations.DecodeAgreesWithOpcodeTable := by
  intro mode op
  rw [tableVariants_eq_rowsOf]
  cases decode mode op <;> rfl

end Sys2Proof.Machine

/-! What every step keeps (10_state.md sections 8 to 10, 60_exceptions.md section 2): the canonical memory, the fault
record, and a key-wait in progress. -/

namespace Sys2Proof.Machine

open Sys2Proof

/-! ### What the end of a cycle leaves as execute left it -/

theorem SameButTimers.refl (s : State) : SameButTimers s s :=
  ⟨rfl, rfl, rfl, rfl, rfl, rfl, rfl, rfl, rfl, rfl, rfl, rfl, rfl, rfl⟩

theorem SameCore.refl (s : State) : SameCore s s := ⟨.refl s, rfl, rfl⟩

theorem State.sameButTimers_endCycle (t : State) (pc0 op : Word) (d : Decoded) :
    SameButTimers t (t.endCycle pc0 op d) := by
  obtain ⟨a, b, o, h⟩ := t.endCycle_eq pc0 op d
  rw [h]
  exact .refl t

section endCycle

variable (t : State) (pc0 op : Word) (d : Decoded)

@[simp] theorem State.endCycle_i : (t.endCycle pc0 op d).i = t.i := by
  obtain ⟨a, b, o, h⟩ := t.endCycle_eq pc0 op d
  rw [h]

@[simp] theorem State.endCycle_pc : (t.endCycle pc0 op d).pc = t.pc := by
  obtain ⟨a, b, o, h⟩ := t.endCycle_eq pc0 op d
  rw [h]

@[simp] theorem State.endCycle_sp : (t.endCycle pc0 op d).sp = t.sp := by
  obtain ⟨a, b, o, h⟩ := t.endCycle_eq pc0 op d
  rw [h]

@[simp] theorem State.endCycle_stack : (t.endCycle pc0 op d).stack = t.stack := by
  obtain ⟨a, b, o, h⟩ := t.endCycle_eq pc0 op d
  rw [h]

@[simp] theorem State.endCycle_fb : (t.endCycle pc0 op d).fb = t.fb := by
  obtain ⟨a, b, o, h⟩ := t.endCycle_eq pc0 op d
  rw [h]

@[simp] theorem State.endCycle_mem : (t.endCycle pc0 op d).mem = t.mem := by
  obtain ⟨a, b, o, h⟩ := t.endCycle_eq pc0 op d
  rw [h]

@[simp] theorem State.endCycle_wait : (t.endCycle pc0 op d).wait = t.wait := by
  obtain ⟨a, b, o, h⟩ := t.endCycle_eq pc0 op d
  rw [h]

@[simp] theorem State.endCycle_kprev : (t.endCycle pc0 op d).kprev = t.kprev := by
  obtain ⟨a, b, o, h⟩ := t.endCycle_eq pc0 op d
  rw [h]

@[simp] theorem State.endCycle_runState : (t.endCycle pc0 op d).runState = t.runState := by
  obtain ⟨a, b, o, h⟩ := t.endCycle_eq pc0 op d
  rw [h]

@[simp] theorem State.endCycle_faultKind : (t.endCycle pc0 op d).faultKind = t.faultKind := by
  obtain ⟨a, b, o, h⟩ := t.endCycle_eq pc0 op d
  rw [h]

@[simp] theorem State.endCycle_faultPc : (t.endCycle pc0 op d).faultPc = t.faultPc := by
  obtain ⟨a, b, o, h⟩ := t.endCycle_eq pc0 op d
  rw [h]

@[simp] theorem State.endCycle_faultAddr : (t.endCycle pc0 op d).faultAddr = t.faultAddr := by
  obtain ⟨a, b, o, h⟩ := t.endCycle_eq pc0 op d
  rw [h]

@[simp] theorem State.endCycle_cfg : (t.endCycle pc0 op d).cfg = t.cfg := by
  obtain ⟨a, b, o, h⟩ := t.endCycle_eq pc0 op d
  rw [h]

end endCycle

theorem State.sameCore_emit (t : State) (o : CycleOut) : SameCore t (t.emit o) := .refl t

/-- No execution writes the model's own fields. -/
theorem execDecoded_own {d : Decoded} {s t : State} (h : execDecoded d s = .next t) :
    t.cfg = s.cfg ∧ t.inputs = s.inputs ∧ t.cycleNo = s.cycleNo ∧ t.out = s.out := by
  obtain ⟨i, -, hi⟩ | ⟨w, -, rfl⟩ := execDecoded_cases h
  · exact exec_own hi
  · exact ⟨rfl, rfl, rfl, rfl⟩

/-- What the next cycle decodes is a matter of PC, memory and the parameters. -/
theorem State.nextDecoded_congr {s t : State} (hpc : t.pc = s.pc) (hmem : t.mem = s.mem) (hcfg : t.cfg = s.cfg) :
    t.nextDecoded = s.nextDecoded := by
  simp only [State.nextDecoded, State.fetch, State.readByte, hpc, hmem, hcfg]

theorem State.nextDecoded_of_fetch {s : State} {op : Word} (h : s.fetch = .ok op) :
    s.nextDecoded = some (decode s.cfg.decodeMode op) := by
  simp only [State.nextDecoded, h]

/-! ### Memory -/

theorem State.MemoryCanonical.congr {s t : State} (hmem : t.mem = s.mem) (hcfg : t.cfg = s.cfg)
    (h : s.MemoryCanonical) : t.MemoryCanonical := by
  rwa [State.MemoryCanonical, hmem, hcfg]

theorem State.MemoryCanonical.writeBytes {s : State} (h : s.MemoryCanonical) (a : Nat) (bs : List Byte) :
    (s.writeBytes a bs).MemoryCanonical := by
  have hcfg : (s.writeBytes a bs).cfg = s.cfg := by
    obtain ⟨m, hm⟩ := s.writeBytes_eq a bs
    rw [hm]
  rw [State.MemoryCanonical, hcfg]
  exact s.writeBytes_canonical a bs h

theorem State.MemoryCanonical.exec {i : Instr} {s t : State} (h : s.MemoryCanonical) (hx : exec i s = .next t) :
    t.MemoryCanonical := by
  obtain ⟨hcfg, -, -, -⟩ := exec_own hx
  obtain ⟨-, ⟨x, rfl | rfl⟩ | hmem, -⟩ := exec_writers hx
  · obtain ⟨-, rfl⟩ | ⟨-, rfl⟩ := execLdBVx_cases hx
    · exact h
    · exact h.writeBytes _ _
  · obtain ⟨-, rfl⟩ | ⟨-, rfl⟩ := execLdMemVx_cases hx
    · exact h
    · exact h.writeBytes _ _
  · exact h.congr hmem hcfg

/-- Settles O56: only Fx33 and Fx55 write memory, and each write keeps the form. -/
theorem stepKeepsMemoryCanonical : Obligations.StepKeepsMemoryCanonical := by
  intro s u h hu
  obtain ⟨-, rfl⟩ | ⟨-, e, -, rfl⟩ | ⟨-, op, t, -, hx, rfl⟩ := step_cases hu
  case inl => exact h
  case inr.inl => exact h
  case inr.inr =>
    have ht : t.MemoryCanonical := by
      obtain ⟨i, -, hi⟩ | ⟨w, -, rfl⟩ := execDecoded_cases hx
      · exact h.exec hi
      · exact h
    exact ht.congr (by simp) (by simp)

/-! ### The fault record -/

theorem State.FaultRecordConsistent.congr {s t : State} (hsp : t.sp = s.sp) (hrun : t.runState = s.runState)
    (hkind : t.faultKind = s.faultKind) (hpc : t.faultPc = s.faultPc) (haddr : t.faultAddr = s.faultAddr)
    (h : s.FaultRecordConsistent) : t.FaultRecordConsistent := by
  rwa [State.FaultRecordConsistent, hsp, hrun, hkind, hpc, haddr]

/-- A first address out of range is above 4095, and below 2^17 as it is a 16-bit register or 4096. -/
theorem State.faultRecordConsistent_takeFault_address (s : State) (a : Word) :
    (s.takeFault (.address (max a.toNat 4096))).FaultRecordConsistent := by
  have ha : a.toNat < 2 ^ 16 := a.isLt
  show 4096 ≤ max a.toNat 4096 ∧ max a.toNat 4096 < 2 ^ 17
  omega

theorem exec_faultRecordConsistent {i : Instr} {s t : State} (hrun : s.runState = .running)
    (h : s.FaultRecordConsistent) (hx : exec i s = .next t) : t.FaultRecordConsistent := by
  obtain ⟨e, rfl, ⟨-, hsp, rfl⟩ | ⟨-, -, hsp, rfl⟩ | ⟨-, -, -, -, -, -, rfl⟩ | ⟨-, -, -, rfl⟩ | ⟨-, -, -, rfl⟩⟩ |
    ⟨⟨hrun', hkind, hpc, haddr⟩, -⟩ := exec_fault_cases hx
  · exact ⟨hsp, rfl⟩
  · exact ⟨hsp, rfl⟩
  · exact s.faultRecordConsistent_takeFault_address s.i
  · exact s.faultRecordConsistent_takeFault_address s.i
  · exact s.faultRecordConsistent_takeFault_address s.i
  · have hrun_t : t.runState = .running := hrun'.trans hrun
    simp only [State.FaultRecordConsistent, hrun, hrun_t, hkind, hpc, haddr] at h ⊢
    exact h

/-- Settles O57: the record is written with RUN_STATE, by a fetch fault or by an instruction's, and by nothing else. -/
theorem stepKeepsFaultRecordConsistent : Obligations.StepKeepsFaultRecordConsistent := by
  intro s u h hu
  obtain ⟨-, rfl⟩ | ⟨-, e, he, rfl⟩ | ⟨hrun, op, t, -, hx, rfl⟩ := step_cases hu
  case inl => exact h
  case inr.inl =>
    obtain ⟨-, rfl⟩ := State.fetch_eq_error.1 he
    exact s.faultRecordConsistent_takeFault_address s.pc
  case inr.inr =>
    have ht : t.FaultRecordConsistent := by
      obtain ⟨i, -, hi⟩ | ⟨w, -, rfl⟩ := execDecoded_cases hx
      · exact exec_faultRecordConsistent hrun h hi
      · exact h
    exact ht.congr (by simp) (by simp) (by simp) (by simp) (by simp)

/-! ### A key-wait in progress -/

theorem State.WaitAtKeyWait.congr {s t : State} (hwait : t.wait = s.wait) (hpc : t.pc = s.pc) (hmem : t.mem = s.mem)
    (hcfg : t.cfg = s.cfg) (h : s.WaitAtKeyWait) : t.WaitAtKeyWait := by
  rwa [State.WaitAtKeyWait, hwait, State.nextDecoded_congr hpc hmem hcfg]

/-- Another cycle of a wait leaves the next fetch where it was. -/
theorem State.nextDecoded_keepWaiting (s : State) : s.keepWaiting.nextDecoded = s.nextDecoded := by
  unfold State.keepWaiting
  split <;> rfl

/-- Every execution but that of Fx0A leaves WAIT. -/
theorem execDecoded_wait_eq {d : Decoded} {s t : State} (hd : ∀ x, d ≠ .instr (.ldVxK x))
    (hx : execDecoded d s = .next t) : t.wait = s.wait := by
  obtain ⟨i, rfl, hi⟩ | ⟨w, -, rfl⟩ := execDecoded_cases hx
  · obtain ⟨⟨x, rfl⟩ | ⟨hwait, -⟩, -⟩ := exec_writers hi
    · exact absurd rfl (hd x)
    · exact hwait
  · rfl

theorem execDecoded_waitAtKeyWait {d : Decoded} {s t : State} (hd : s.nextDecoded = some d)
    (h : s.WaitAtKeyWait) (hx : execDecoded d s = .next t) : t.WaitAtKeyWait := by
  intro ht
  by_cases hk : ∃ x, d = .instr (.ldVxK x)
  · obtain ⟨x, rfl⟩ := hk
    obtain ⟨k, -, rfl⟩ | ⟨-, rfl⟩ := execLdVxK_cases hx
    · cases ht
    · exact ⟨x, s.nextDecoded_keepWaiting.trans hd⟩
  · have hwait : t.wait = s.wait := execDecoded_wait_eq (not_exists.1 hk) hx
    obtain ⟨x, hs⟩ := h (hwait ▸ ht)
    exact absurd ⟨x, Option.some.inj (hd.symm.trans hs)⟩ hk

/-- Settles O58: only Fx0A sets WAIT, and where it does PC, memory and the parameters stay, so it is fetched again. -/
theorem stepKeepsWaitAtAKeyWait : Obligations.StepKeepsWaitAtAKeyWait := by
  intro s u h hu
  obtain ⟨-, rfl⟩ | ⟨-, e, -, rfl⟩ | ⟨-, op, t, hf, hx, rfl⟩ := step_cases hu
  case inl => exact h
  case inr.inl => exact h
  case inr.inr =>
    have ht : t.WaitAtKeyWait := execDecoded_waitAtKeyWait (State.nextDecoded_of_fetch hf) h hx
    exact ht.congr (by simp) (by simp) (by simp) (by simp)

/-! ### The invariants at reset -/

/-- Settles O59: memory lists no byte at reset, no fault is recorded, and WAIT is clear. -/
theorem invariantsHoldAfterReset : Obligations.InvariantsHoldAfterReset := by
  intro t ht
  obtain ⟨c, l, n, rfl⟩ := State.exists_eq_resetAt ht
  exact ⟨rfl, ⟨rfl, rfl, rfl⟩, rfl, nofun⟩

end Sys2Proof.Machine

/-! Reset, LOAD and the boot sequence (70_reset_and_hazards.md R370 to R373). -/

namespace Sys2Proof.Machine

open Sys2Proof

/-- Settles O8: every element is a field of the reset state, and RESET keeps the parameters and the inputs. -/
theorem resetClearsScreenWaitAndFaultRecord : Obligations.ResetClearsScreenWaitAndFaultRecord := by
  intro t ht
  have hown : ∀ s : State, t = s.hostReset → t.cfg = s.cfg ∧ t.inputs = s.inputs := by
    rintro s rfl
    exact ⟨rfl, rfl⟩
  obtain ⟨c, l, n, rfl⟩ := State.exists_eq_resetAt ht
  exact ⟨pixel_clearFramebuffer, rfl, rfl, rfl, rfl, rfl, rfl, rfl, hown⟩

/-- The memory of a reset state lists no byte, so it reads as its reset contents. -/
theorem State.readByte_hostReset (s : State) (a : Nat) : s.hostReset.readByte a = resetByte s.cfg.fontBase a := rfl

/-- The font of the model is the font of R371. -/
theorem glyphByte_toNat : ∀ d < 16, ∀ j < 5, (glyphByte d j).toNat = (fontRows.getD d []).getD j 0 := by
  decide

theorem resetByte_font (base : Nat) {d j : Nat} (hd : d < 16) (hj : j < 5) :
    resetByte base (base + 5 * d + j) = glyphByte d j := by
  have hin : base ≤ base + 5 * d + j ∧ base + 5 * d + j < base + 80 := by omega
  have hdiv : (base + 5 * d + j - base) / 5 = d := by omega
  have hmod : (base + 5 * d + j - base) % 5 = j := by omega
  rw [resetByte, if_pos hin, hdiv, hmod]

theorem resetByte_outside (base a : Nat) (h : a < base ∨ base + 80 ≤ a) : resetByte base a = 0 :=
  if_neg (by omega)

/-- Settles O9: an address inside the 80 font bytes reads the glyph byte its offset names, any other reads 0. -/
theorem resetMemoryIsZeroButTheFont : Obligations.ResetMemoryIsZeroButTheFont := by
  intro s _
  constructor
  · intro d j hd hj
    rw [State.readByte_hostReset, resetByte_font _ hd hj, glyphByte_toNat d hd j hj]
  · exact resetByte_outside s.cfg.fontBase

/-- From a state to itself nothing changes. An update of some fields has this frame in every other field. -/
theorem State.frame_refl (s : State) (regs : List Reg) (parts : List Part) : Frame regs parts s s where
  v _ _ := rfl
  i _ := rfl
  stack _ := ⟨rfl, rfl⟩
  dt _ := rfl
  st _ := rfl
  fb _ := rfl
  mem _ _ := rfl
  keyWait _ := ⟨rfl, rfl⟩
  fault _ := ⟨rfl, rfl, rfl, rfl⟩
  own := ⟨rfl, rfl, rfl, rfl⟩

/-- A run of bytes keeps everything but memory. -/
theorem State.frame_writeBytes (s : State) (a : Nat) (bs : List Byte) : Frame [] [.mem] s (s.writeBytes a bs) := by
  obtain ⟨m, hm⟩ := s.writeBytes_eq a bs
  rw [hm]
  exact { s.frame_refl [] [.mem] with mem := fun h => absurd (List.mem_singleton_self Part.mem) h }

@[simp] theorem State.writeBytes_pc (s : State) (a : Nat) (bs : List Byte) : (s.writeBytes a bs).pc = s.pc := by
  obtain ⟨m, hm⟩ := s.writeBytes_eq a bs
  rw [hm]

theorem State.load_of_le {s : State} {rom : List Byte} (h : rom.length ≤ 3584) :
    s.load rom = (.ok, s.writeBytes loadAddress rom) :=
  if_pos (decide_eq_true h)

theorem State.load_of_lt {s : State} {rom : List Byte} (h : 3584 < rom.length) : s.load rom = (.capacity, s) :=
  if_neg (mt of_decide_eq_true (Nat.not_le.2 h))

theorem State.readByte_writeBytes_loadAddress (s : State) {rom : List Byte} (h : rom.length ≤ 3584) (a : Nat) :
    (s.writeBytes loadAddress rom).readByte a =
      if 0x200 ≤ a ∧ a < 0x200 + rom.length then rom.getD (a - 0x200) 0 else s.readByte a :=
  s.readByte_writeBytes loadAddress rom a (by unfold loadAddress memorySize; omega)

/-- Settles O10: a ROM that fits is one run of bytes from 0x200 inside memory. -/
theorem loadPlacesTheRomOrChangesNothing : Obligations.LoadPlacesTheRomOrChangesNothing := by
  intro s rom
  refine ⟨fun h => ?fits, State.load_of_lt⟩
  exact ⟨_, State.load_of_le h, s.writeBytes_pc _ _, s.frame_writeBytes _ _, s.readByte_writeBytes_loadAddress h⟩

/-! ### The boot sequence -/

/-- Creation and RESET leave a session at the start of the boot sequence, its core running from 0x200. -/
theorem Session.fresh_of_boot {z₀ : Session}
    (h : (∃ c, z₀ = Session.start c) ∨ ∃ z : Session, z.operate .reset = .next (z₀, .nothing)) :
    z₀.phase = .fresh ∧ z₀.core.runState = .running ∧ z₀.core.pc = 0x200 := by
  obtain ⟨c, rfl⟩ | ⟨z, hz⟩ := h
  · exact ⟨rfl, rfl, rfl⟩
  · obtain ⟨rfl, -⟩ := Prod.mk.inj (Host.Outcome.next.inj (z.operate_reset.symm.trans hz))
    exact ⟨rfl, rfl, rfl⟩

/-- A CYCLE on a running core whose fetch is inside memory executes the word fetched and ends the cycle. -/
theorem Session.operate_cycle_of_fetch {z : Session} {op : Word} (hz : z.phase ≠ .loadFailed)
    (hr : z.core.runState = .running) (hf : z.core.fetch = .ok op) (inp : CycleInput) :
    ∃ t u, execDecoded (decode z.core.cfg.decodeMode op) { z.core with inputs := [inp] } = .next t ∧
      u = t.endCycle z.core.pc op (decode z.core.cfg.decodeMode op) ∧
      z.operate (.cycle inp) = .next (⟨u, .running⟩, .cycle u.out) := by
  obtain ⟨t, ht⟩ := execDecoded_total (decode z.core.cfg.decodeMode op) { z.core with inputs := [inp] }
  have hstep := step_of_exec (s := { z.core with inputs := [inp] }) hr hf ht
  exact ⟨t, _, ht, rfl, Session.operate_cycle hz hstep⟩

/-- The first word of a ROM just loaded, for a core at 0x200. -/
theorem State.fetch_writeBytes_loadAddress {s : State} {rom : List Byte} (hpc : s.pc = 0x200) (h2 : 2 ≤ rom.length)
    (hle : rom.length ≤ 3584) :
    (s.writeBytes loadAddress rom).fetch = .ok (wordOfBytes (rom.getD 0 0) (rom.getD 1 0)) := by
  have h0 : (s.writeBytes loadAddress rom).readByte 0x200 = rom.getD 0 0 := by
    rw [s.readByte_writeBytes_loadAddress hle, if_pos (by omega)]
  have h1 : (s.writeBytes loadAddress rom).readByte 0x201 = rom.getD 1 0 := by
    rw [s.readByte_writeBytes_loadAddress hle, if_pos (by omega)]
  rw [State.fetch_eq_ok, State.writeBytes_pc, hpc, ← h0, ← h1]
  exact ⟨by decide, rfl⟩

/-- Settles O11: after RESET or creation the phase is fresh, so LOAD is answered; the loaded core fetches the ROM's first
two bytes; the duties that are broken are refused by phase. -/
theorem bootRunsTheFirstWordOfTheRom : Obligations.BootRunsTheFirstWordOfTheRom := by
  refine ⟨Session.operate_reset, ?boot, ?cycle, ?capacity, fun z rom => Session.operate_load_refused rom⟩
  case boot =>
    intro z₀ rom hboot h2 hle
    obtain ⟨hphase, hrun, hpc⟩ := Session.fresh_of_boot hboot
    have hpc' : (z₀.core.writeBytes loadAddress rom).pc = 0x200 := (State.writeBytes_pc _ _ _).trans hpc
    obtain ⟨hrun', -⟩ := (z₀.core.frame_writeBytes loadAddress rom).fault (by decide)
    have hf := State.fetch_writeBytes_loadAddress hpc h2 hle
    refine ⟨_, Session.operate_load_ok hphase hle, rfl, hrun'.trans hrun, hpc', _, wordOfBytes_toNat _ _, hf, ?_⟩
    intro inp
    rw [← hpc']
    exact Session.operate_cycle_of_fetch (by simp) (hrun'.trans hrun) hf inp
  case cycle =>
    intro z inp hz
    obtain ⟨u, hu⟩ := step_total { z.core with inputs := [inp] }
    exact ⟨u, hu, Session.operate_cycle hz hu⟩
  case capacity =>
    intro z₀ rom hboot hlt
    obtain ⟨hphase, -, -⟩ := Session.fresh_of_boot hboot
    exact ⟨_, Session.operate_load_capacity hphase hlt, rfl, fun inp => Session.operate_cycle_refused inp rfl⟩

end Sys2Proof.Machine

/-! The cycle (40_cycle.md R141 to R156): how each kind of cycle ends, its tick and its outputs. -/

namespace Sys2Proof.Machine

open Sys2Proof

/-! ### The entry of a fault -/

/-- A taken fault writes RUN_STATE and the fault record only (60_exceptions.md R335). -/
theorem State.faultTaken_takeFault (s : State) (e : Exception) : FaultTaken s (s.takeFault e) e.kind e.addr := by
  have hframe : Frame [] [.fault] s (s.takeFault e) :=
    { s.frame_refl [] [.fault] with fault := fun h => absurd (List.mem_singleton_self Part.fault) h }
  exact ⟨rfl, rfl, rfl, rfl, rfl, hframe⟩

/-- An instruction that halts a running core has taken a fault's entry. -/
theorem exec_halted {i : Instr} {s t : State} (hrun : s.runState = .running) (hx : exec i s = .next t)
    (ht : t.runState = .halted) : ∃ e, t = s.takeFault e := by
  obtain ⟨e, he, -⟩ | ⟨⟨hrun', -⟩, -⟩ := exec_fault_cases hx
  · exact ⟨e, he⟩
  · rw [hrun', hrun] at ht
    cases ht

/-- Settles O50: the fault's entry is all that such an instruction leaves. -/
theorem faultsArePrecise : Obligations.FaultsArePrecise := by
  intro i s t hrun hx ht
  obtain ⟨e, rfl⟩ := exec_halted hrun hx ht
  refine ⟨s.faultTaken_takeFault e, ?_⟩
  cases e
  case stackOverflow => exact ⟨nofun, fun _ => rfl⟩
  case stackUnderflow => exact ⟨nofun, fun _ => rfl⟩
  case address a => exact ⟨nofun, fun h => absurd rfl h⟩

/-- Settles O49: each listed condition raises, and where none holds RUN_STATE is left. -/
theorem onlyTheseInstructionsFault : Obligations.OnlyTheseInstructionsFault := by
  intro i s t hrun hx
  obtain ⟨e, rfl, he⟩ | ⟨⟨hrun', -⟩, hno⟩ := exec_fault_cases hx
  · refine iff_of_true rfl ?_
    obtain ⟨hi, h, -⟩ | ⟨nnn, hi, h, -⟩ | ⟨x, y, n, hi, hn, h, -⟩ | ⟨x, hi, h, -⟩ | ⟨x, hi, h, -⟩ := he
    · exact .inl ⟨hi, h⟩
    · exact .inr (.inl ⟨nnn, hi, h⟩)
    · exact .inr (.inr (.inl ⟨x, y, n, hi, hn, h⟩))
    · exact .inr (.inr (.inr (.inl ⟨x, hi, h⟩)))
    · exact .inr (.inr (.inr (.inr ⟨x, hi, h⟩)))
  · refine iff_of_false ?_ hno
    simp [hrun', hrun]

/-! ### The kinds of cycle -/

theorem step_of_halted {s : State} (h : s.runState = .halted) : step s = .next s.haltedCycle := by
  simp only [step, h]

theorem step_of_fetch_error {s : State} {e : Exception} (hr : s.runState = .running) (hf : s.fetch = .error e) :
    step s = .next ((s.takeFault e).faultCycle none none) := by
  simp only [step, hr, hf]

theorem step_of_exec_instr {s t : State} {op : Word} {i : Instr} (hr : s.runState = .running) (hf : s.fetch = .ok op)
    (hd : decode s.cfg.decodeMode op = .instr i) (hx : exec i s = .next t) :
    step s = .next (t.endCycle s.pc op (.instr i)) := by
  have hx' : execDecoded (decode s.cfg.decodeMode op) s = .next t := by rw [hd]; exact hx
  rw [step_of_exec hr hf hx', hd]

/-- Settles O12: the two bytes at PC are the word fetched. -/
theorem stepRunsTheDecodedInstruction : Obligations.StepRunsTheDecodedInstruction := by
  intro s op i hr hpc hop hd
  have hf : s.fetch = .ok op := by
    refine State.fetch_eq_ok.2 ⟨hpc, BitVec.eq_of_toNat_eq ?_⟩
    rw [hop, wordOfBytes_toNat]
  obtain ⟨t, ht⟩ := exec_total i s
  exact ⟨t, _, ht, step_of_exec_instr hr hf hd ht, rfl, t.sameButTimers_endCycle _ _ _⟩

/-- Settles O14: the step is the fault's entry and its outputs. -/
theorem fetchOutOfRangeFaults : Obligations.FetchOutOfRangeFaults := by
  intro s hr hpc
  have hf : s.fetch = .error (.address (max s.pc.toNat 4096)) := State.fetch_eq_error.2 ⟨hpc, rfl⟩
  exact ⟨_, _, step_of_fetch_error hr hf, s.faultTaken_takeFault _, State.sameCore_emit _ _, rfl⟩

/-- Settles O16: a halted cycle is its outputs alone. -/
theorem haltedCycleChangesNothing : Obligations.HaltedCycleChangesNothing := by
  intro s h
  exact ⟨_, step_of_halted h, s.sameCore_emit _, rfl⟩

theorem SameCore.runState_eq {s t : State} (h : SameCore s t) : t.runState = s.runState := by
  obtain ⟨⟨-, -, -, -, -, -, -, -, -, hrun, -⟩, -⟩ := h
  exact hrun

/-- Settles O51: each step of the run is a halted cycle, which leaves the core as it was. -/
theorem haltedIsAbsorbing : Obligations.HaltedIsAbsorbing := by
  intro ss n hss h0 k
  induction k with
  | zero => exact fun _ => .refl _
  | succ k ih =>
    intro hk
    have hsame : SameCore (ss 0) (ss k) := ih (by omega)
    have hrun : (ss k).runState = (ss 0).runState := hsame.runState_eq
    have hnext : ss (k + 1) = (ss k).haltedCycle :=
      Host.Outcome.next.inj ((hss k hk).symm.trans (step_of_halted (hrun.trans h0)))
    rw [hnext]
    exact hsame

/-- Settles O48: a cycle of each kind ends with its outputs, and no execution writes the model's own fields. -/
theorem everyStepAnswersANextState : Obligations.EveryStepAnswersANextState := by
  intro s
  obtain ⟨u, hu⟩ := step_total s
  refine ⟨u, hu, ?_⟩
  obtain ⟨-, rfl⟩ | ⟨-, e, -, rfl⟩ | ⟨-, op, t, -, hx, rfl⟩ := step_cases hu
  case inl => exact ⟨rfl, rfl, rfl, rfl⟩
  case inr.inl => exact ⟨rfl, rfl, rfl, rfl⟩
  case inr.inr =>
    obtain ⟨hcfg, hinputs, hno, -⟩ := execDecoded_own hx
    obtain ⟨a, b, o, h⟩ := t.endCycle_eq s.pc op (decode s.cfg.decodeMode op)
    rw [h]
    exact ⟨hcfg, congrArg List.tail hinputs, congrArg (· + 1) hno, rfl⟩

/-! ### Outputs (R154, R155) -/

theorem State.endCycle_out_of_running {t : State} (pc0 op : Word) (d : Decoded) (h : t.runState = .running) :
    (t.endCycle pc0 op d).out =
      some ⟨(kindOf d t).status, t.beeps, some ⟨(kindOf d t).diagClass, pc0, some op, some d.variant, none⟩⟩ := by
  rw [State.endCycle_running _ _ _ h]
  rfl

/-- Settles O15: an unknown word's execution is the advance, and its kind is UNKNOWN. -/
theorem unknownOpcodeAdvancesByTwo : Obligations.UnknownOpcodeAdvancesByTwo := by
  intro s op hr hf hd
  have hx : execDecoded (decode s.cfg.decodeMode op) s = .next s.advance := by rw [hd]; rfl
  have hstep := step_of_exec hr hf hx
  rw [hd] at hstep
  have hrun : s.advance.runState = .running := hr
  exact ⟨_, hstep, s.advance.sameButTimers_endCycle _ _ _, by simp [hr], _,
    State.endCycle_out_of_running s.pc op (.unknown op) hrun⟩

/-- Settles O17: the instruction took a fault's entry, and a faulting cycle adds its outputs only. -/
theorem faultingInstructionStepHasNoTick : Obligations.FaultingInstructionStepHasNoTick := by
  intro s t op i hr hf hd hx ht
  obtain ⟨e, rfl⟩ := exec_halted hr hx ht
  refine ⟨_, step_of_exec_instr hr hf hd hx, ?_⟩
  rw [State.endCycle_halted _ _ _ ht]
  exact ⟨State.sameCore_emit _ _, s.faultTaken_takeFault e, rfl⟩

/-- An execution has the kind WAIT exactly if it is Fx0A and left WAIT set. -/
theorem kindOf_instr (i : Instr) (t : State) :
    kindOf (.instr i) t = if (∃ x, i = .ldVxK x) ∧ t.wait = true then .wait else .done := by
  cases i <;> simp [kindOf, Decoded.variant, Instr.variant]

/-- Settles O20: STATUS and the class of the record follow from the kind of the execution. -/
theorem outputsOfACompletedCycle : Obligations.OutputsOfACompletedCycle := by
  intro s t op i hr hf hd hx ht
  refine ⟨_, t.beeps, step_of_exec_instr hr hf hd hx, fun h => ?_, fun h => ?_⟩
  · rw [State.endCycle_out_of_running _ _ _ ht, kindOf_instr, if_pos h]
    rfl
  · rw [State.endCycle_out_of_running _ _ _ ht, kindOf_instr, if_neg h]
    rfl

/-! ### The tick (R150, R151) -/

theorem State.tickEnabled_iff (s : State) : s.tickEnabled = true ↔ TickOn s := by
  unfold State.tickEnabled TickOn
  cases s.cfg.tickSource <;> simp

/-- Whether a cycle ticks is a matter of its parameters and inputs, which execute leaves. -/
theorem tickOn_of_execDecoded {d : Decoded} {s t : State} (h : execDecoded d s = .next t) : TickOn t ↔ TickOn s := by
  obtain ⟨hcfg, hinputs, hno, -⟩ := execDecoded_own h
  simp only [TickOn, State.input, hcfg, hinputs, hno]

theorem State.tick_of_tickOn {s : State} (h : TickOn s) :
    s.tick = { s with dt := decrement s.dt, st := decrement s.st } :=
  if_pos (s.tickEnabled_iff.2 h)

theorem State.tick_of_not_tickOn {s : State} (h : ¬TickOn s) : s.tick = s :=
  if_neg (mt s.tickEnabled_iff.1 h)

theorem State.beeps_iff (s : State) : s.beeps = true ↔ TickOn s ∧ s.st = 1 := by
  rw [State.beeps, Bool.and_eq_true, s.tickEnabled_iff, beq_iff_eq]

/-- The end of a cycle that ticks moves both timers. -/
theorem State.endCycle_timers_of_tick {t : State} (pc0 op : Word) (d : Decoded) (hr : t.runState = .running)
    (h : TickOn t) : (t.endCycle pc0 op d).dt.toNat = t.dt.toNat - 1 ∧ (t.endCycle pc0 op d).st.toNat = t.st.toNat - 1 := by
  rw [State.endCycle_running _ _ _ hr, State.execCycle, State.tick_of_tickOn h]
  exact ⟨decrement_toNat _, decrement_toNat _⟩

/-- The end of any other cycle leaves both. -/
theorem State.endCycle_timers_of_no_tick {t : State} (pc0 op : Word) (d : Decoded)
    (h : ¬(t.runState = .running ∧ TickOn t)) : (t.endCycle pc0 op d).dt = t.dt ∧ (t.endCycle pc0 op d).st = t.st := by
  cases hr : t.runState
  case halted =>
    rw [State.endCycle_halted _ _ _ hr]
    exact ⟨rfl, rfl⟩
  case running =>
    rw [State.endCycle_running _ _ _ hr, State.execCycle, State.tick_of_not_tickOn fun ht => h ⟨hr, ht⟩]
    exact ⟨rfl, rfl⟩

/-- BEEP at the end of a cycle. -/
theorem State.endCycle_beep (t : State) (pc0 op : Word) (d : Decoded) :
    ∃ o, (t.endCycle pc0 op d).out = some o ∧ (o.beep = true ↔ t.runState = .running ∧ TickOn t ∧ t.st = 1) := by
  cases hr : t.runState
  case halted =>
    rw [State.endCycle_halted _ _ _ hr]
    exact ⟨_, rfl, by simp⟩
  case running =>
    rw [State.endCycle_running _ _ _ hr]
    exact ⟨_, rfl, by simp [t.beeps_iff]⟩

/-- Settles O19: the tick is the end of the cycle, and what enables it is as before execute. -/
theorem delayTimerTick : Obligations.DelayTimerTick := by
  intro s t op hr hf hx
  refine ⟨_, step_of_exec hr hf hx, ?_⟩
  rw [← tickOn_of_execDecoded hx]
  exact ⟨fun ht h => (State.endCycle_timers_of_tick _ _ _ ht h).1, fun h => (State.endCycle_timers_of_no_tick _ _ _ h).1⟩

/-- Settles O18: a halted cycle and a fetch fault neither tick nor beep; any other cycle does so at its end. -/
theorem soundTimerTickAndBeep : Obligations.SoundTimerTickAndBeep := by
  intro s u hu
  obtain ⟨hr, rfl⟩ | ⟨hr, e, he, rfl⟩ | ⟨hr, op, t, hf, hx, rfl⟩ := step_cases hu
  case inl =>
    refine ⟨_, rfl, fun _ => ⟨rfl, rfl⟩, fun _ _ => ⟨rfl, rfl⟩, fun op t hr' => ?_⟩
    rw [hr] at hr'
    cases hr'
  case inr.inl =>
    refine ⟨_, rfl, fun _ => ⟨rfl, rfl⟩, fun _ _ => ⟨rfl, rfl⟩, fun op t _ hf => ?_⟩
    rw [he] at hf
    cases hf
  case inr.inr =>
    obtain ⟨o, ho, hbeep⟩ := t.endCycle_beep s.pc op (decode s.cfg.decodeMode op)
    refine ⟨o, ho, fun hr' => ?_, fun e he => ?_, fun op' t' _ hf' hx' => ?_⟩
    · rw [hr] at hr'
      cases hr'
    · rw [hf] at he
      cases he
    · obtain rfl := Except.ok.inj (hf.symm.trans hf')
      obtain rfl := Host.Outcome.next.inj (hx.symm.trans hx')
      rw [← tickOn_of_execDecoded hx]
      exact ⟨hbeep, fun ht h => (State.endCycle_timers_of_tick _ _ _ ht h).2,
        fun h => (State.endCycle_timers_of_no_tick _ _ _ h).2⟩

end Sys2Proof.Machine

/-! Runs of steps: who writes each part of the state, timer decay (45_keypad_timers.md section 3), the self-jump
(70_reset_and_hazards.md section 5), and a call with its return (41_control_flow.md section 3). -/

namespace Sys2Proof.Machine

open Sys2Proof

/-- A step either ends the execution of a decoded instruction, or leaves every part but PC, the timers, the fault record
and the model's own fields. -/
theorem step_instr_cases {s u : State} (hu : step s = .next u) :
    (∃ i t op, s.nextDecoded = some (.instr i) ∧ exec i s = .next t ∧ u = t.endCycle s.pc op (.instr i)) ∨
    (u.i = s.i ∧ u.sp = s.sp ∧ u.stack = s.stack ∧ u.fb = s.fb ∧ u.mem = s.mem ∧ u.wait = s.wait ∧
      u.kprev = s.kprev ∧ u.cfg = s.cfg) := by
  obtain ⟨-, rfl⟩ | ⟨-, e, -, rfl⟩ | ⟨-, op, t, hf, hx, rfl⟩ := step_cases hu
  case inl => exact .inr ⟨rfl, rfl, rfl, rfl, rfl, rfl, rfl, rfl⟩
  case inr.inl => exact .inr ⟨rfl, rfl, rfl, rfl, rfl, rfl, rfl, rfl⟩
  case inr.inr =>
    obtain ⟨i, hd, hi⟩ | ⟨w, -, rfl⟩ := execDecoded_cases hx
    · exact .inl ⟨i, t, op, (State.nextDecoded_of_fetch hf).trans (congrArg some hd), hi, by rw [hd]⟩
    · right
      simp

/-- Settles O52: the step's instruction is the only writer, and the table of writers names it. -/
theorem stackAndScreenWriters : Obligations.StackAndScreenWriters := by
  intro s u hu
  obtain ⟨i, t, op, hd, hi, rfl⟩ | ⟨-, hsp, hstack, hfb, -⟩ := step_instr_cases hu
  · obtain ⟨-, -, -, wstack, wfb, -⟩ := exec_writers hi
    rw [State.endCycle_sp, State.endCycle_stack, State.endCycle_fb, hd]
    constructor
    · intro hne
      obtain (rfl | ⟨nnn, rfl⟩) | ⟨hsp', hstack'⟩ := wstack
      · exact .inl rfl
      · exact .inr ⟨nnn, rfl⟩
      · exact absurd hne (by simp [hsp', hstack'])
    · intro hne
      obtain (rfl | ⟨x, y, n, rfl⟩) | hfb' := wfb
      · exact .inl rfl
      · exact .inr ⟨x, y, n, rfl⟩
      · exact absurd hfb' hne
  · exact ⟨fun hne => absurd hne (by simp [hsp, hstack]), fun hne => absurd hfb hne⟩

theorem State.readByte_congr {s t : State} (hmem : t.mem = s.mem) (hcfg : t.cfg = s.cfg) (a : Nat) :
    t.readByte a = s.readByte a := by
  rw [State.readByte, State.readByte, hmem, hcfg]

/-- Settles O53: as O52, for memory, I and the key-wait registers. -/
theorem memoryIndexAndWaitWriters : Obligations.MemoryIndexAndWaitWriters := by
  intro s u hu
  obtain ⟨i, t, op, hd, hi, rfl⟩ | ⟨hI, -, -, -, hmem, hwait, hkprev, hcfg⟩ := step_instr_cases hu
  · obtain ⟨hcfg, -⟩ := exec_own hi
    obtain ⟨wkey, wmem, wI, -⟩ := exec_writers hi
    rw [State.endCycle_i, State.endCycle_wait, State.endCycle_kprev, hd]
    refine ⟨?mem, ?index, ?key⟩
    case mem =>
      rintro ⟨a, ha⟩
      obtain ⟨x, rfl | rfl⟩ | hmem := wmem
      · exact ⟨x, .inl rfl⟩
      · exact ⟨x, .inr rfl⟩
      · exact absurd (State.readByte_congr (by simp [hmem]) (by simp [hcfg]) a) ha
    case index =>
      intro hne
      obtain (⟨nnn, rfl⟩ | ⟨x, rfl | rfl⟩) | hI' := wI
      · exact .inl ⟨nnn, rfl⟩
      · exact .inr ⟨x, .inl rfl⟩
      · exact .inr ⟨x, .inr rfl⟩
      · exact absurd hI' hne
    case key =>
      intro hne
      obtain ⟨x, rfl⟩ | ⟨hwait', hkprev'⟩ := wkey
      · exact ⟨x, rfl⟩
      · exact absurd hne (by simp [hwait', hkprev'])
  · refine ⟨?_, fun hne => absurd hI hne, fun hne => absurd hne (by simp [hwait, hkprev])⟩
    rintro ⟨a, ha⟩
    exact absurd (State.readByte_congr hmem hcfg a) ha

/-! ### Timer decay -/

/-- A value that goes down by 1 in each of `n` steps, and stays at 0. -/
theorem decay_of_step {f : Nat → Nat} {n : Nat} (h : ∀ k < n, f (k + 1) = f k - 1) : f n = f 0 - n := by
  induction n with
  | zero => rfl
  | succ n ih =>
    rw [h n (by omega), ih fun k hk => h k (by omega)]
    omega

/-- Fx15 and Fx18 are the only writers of the timers in execute. -/
theorem execDecoded_timers {d : Decoded} {s t : State} (h : execDecoded d s = .next t) :
    ((∀ x, d ≠ .instr (.ldDtVx x)) → t.dt = s.dt) ∧ ((∀ x, d ≠ .instr (.ldStVx x)) → t.st = s.st) := by
  obtain ⟨i, rfl, hi⟩ | ⟨w, -, rfl⟩ := execDecoded_cases h
  · obtain ⟨-, -, -, -, -, wdt, wst⟩ := exec_writers hi
    refine ⟨fun hd => wdt.resolve_left ?_, fun hd => wst.resolve_left ?_⟩
    · rintro ⟨x, rfl⟩
      exact hd x rfl
    · rintro ⟨x, rfl⟩
      exact hd x rfl
  · exact ⟨fun _ => rfl, fun _ => rfl⟩

/-- One step of a decay: a cycle that ticks and does not fault. -/
theorem step_timers {s u : State} (hu : step s = .next u) (hr : s.runState = .running) (htick : TickOn s)
    (hr' : u.runState = .running) :
    ((∀ x, s.nextDecoded ≠ some (.instr (.ldDtVx x))) → u.dt.toNat = s.dt.toNat - 1) ∧
    ((∀ x, s.nextDecoded ≠ some (.instr (.ldStVx x))) → u.st.toNat = s.st.toNat - 1) := by
  obtain ⟨hh, -⟩ | ⟨-, e, -, rfl⟩ | ⟨-, op, t, hf, hx, rfl⟩ := step_cases hu
  case inl =>
    rw [hr] at hh
    cases hh
  case inr.inl => cases hr'
  case inr.inr =>
    rw [State.endCycle_runState] at hr'
    obtain ⟨hdt, hst⟩ := State.endCycle_timers_of_tick s.pc op (decode s.cfg.decodeMode op) hr'
      ((tickOn_of_execDecoded hx).2 htick)
    obtain ⟨wdt, wst⟩ := execDecoded_timers hx
    simp only [State.nextDecoded_of_fetch hf, ne_eq, Option.some.injEq]
    exact ⟨fun hd => by rw [hdt, wdt hd], fun hd => by rw [hst, wst hd]⟩

/-- Settles O21: each step of the run moves each timer it does not load down by 1. -/
theorem timersDecayOverARun : Obligations.TimersDecayOverARun := by
  intro ss n hss hrun
  constructor
  · intro hd
    refine decay_of_step (f := fun k => (ss k).dt.toNat) fun k hk => ?_
    obtain ⟨hr, htick, hr'⟩ := hrun k hk
    exact (step_timers (hss k hk) hr htick hr').1 (hd k hk)
  · intro hd
    refine decay_of_step (f := fun k => (ss k).st.toNat) fun k hk => ?_
    obtain ⟨hr, htick, hr'⟩ := hrun k hk
    exact (step_timers (hss k hk) hr htick hr').2 (hd k hk)

/-! ### The self-jump -/

/-- What the next cycle decodes comes from a fetch. -/
theorem State.nextDecoded_eq_some {s : State} {d : Decoded} :
    s.nextDecoded = some d ↔ ∃ op, s.fetch = .ok op ∧ decode s.cfg.decodeMode op = d := by
  unfold State.nextDecoded
  cases s.fetch <;> simp

/-- Settles O22: the jump sets PC to the address it has, so execute leaves the state and the end of the cycle its timers. -/
theorem selfJumpRepeatsForever : Obligations.SelfJumpRepeatsForever := by
  rintro s ⟨hr, nnn, hd, hpc⟩
  obtain ⟨op, hf, hdec⟩ := State.nextDecoded_eq_some.1 hd
  have hzext : zext16 nnn = s.pc := BitVec.eq_of_toNat_eq ((zext16_toNat nnn).trans hpc.symm)
  have hx : exec (.jp nnn) s = .next s := by
    show Host.Outcome.next (s.setPc (zext16 nnn)) = .next s
    rw [hzext]
    rfl
  refine ⟨_, step_of_exec_instr hr hf hdec hx, ⟨by simp [hr], nnn, ?_, by simp [hpc]⟩, s.sameButTimers_endCycle _ _ _⟩
  rw [← hd]
  exact State.nextDecoded_congr (by simp) (by simp) (by simp)

end Sys2Proof.Machine

/-! The call stack (41_control_flow.md R181, R183) and the call with its return. -/

namespace Sys2Proof.Machine

open Sys2Proof

/-- A write of the stack, SP and PC keeps everything else. -/
theorem State.frame_stack (s : State) (stack : Vector Word 16) (sp : Fin 17) (pc : Word) :
    Frame [] [.stack] s { s with stack := stack, sp := sp, pc := pc } :=
  { s.frame_refl [] [.stack] with stack := fun h => absurd (List.mem_singleton_self Part.stack) h }

/-- CALL below capacity: the push and the jump. -/
theorem exec_call_of_le (nnn : Imm12) {s : State} (h : s.sp.val ≤ 15) :
    ∃ hs : s.sp.val < 16, exec (.call nnn) s = .next { s with
      stack := s.stack.set s.sp.val s.pc hs
      sp := ⟨s.sp.val + 1, Nat.succ_lt_succ hs⟩
      pc := zext16 nnn } := by
  obtain ⟨t, ht⟩ := exec_total (.call nnn) s
  obtain ⟨h16, -⟩ | ⟨hs, rfl⟩ := execCall_cases ht
  · omega
  · exact ⟨hs, ht⟩

/-- CALL at capacity. -/
theorem exec_call_of_eq (nnn : Imm12) {s : State} (h : s.sp.val = 16) :
    exec (.call nnn) s = .next (s.takeFault .stackOverflow) := by
  obtain ⟨t, ht⟩ := exec_total (.call nnn) s
  obtain ⟨-, rfl⟩ | ⟨hs, -⟩ := execCall_cases ht
  · exact ht
  · omega

/-- RET above the bottom: the pop and the return. -/
theorem exec_ret_of_pos {s : State} (h : 1 ≤ s.sp.val) :
    ∃ lt : s.sp.val - 1 < 16, exec .ret s = .next { s with
      sp := ⟨s.sp.val - 1, Nat.lt_succ_of_lt lt⟩
      pc := s.stack[s.sp.val - 1] + 2 } := by
  obtain ⟨t, ht⟩ := exec_total .ret s
  obtain ⟨h0, -⟩ | ⟨-, lt, rfl⟩ := execRet_cases ht
  · omega
  · exact ⟨lt, ht⟩

/-- RET at the bottom. -/
theorem exec_ret_of_eq {s : State} (h : s.sp.val = 0) : exec .ret s = .next (s.takeFault .stackUnderflow) := by
  obtain ⟨t, ht⟩ := exec_total .ret s
  obtain ⟨-, rfl⟩ | ⟨h0, -⟩ := execRet_cases ht
  · exact ht
  · exact absurd h h0

/-- Settles O24: below capacity CALL is the push and the jump. -/
theorem callPushesItsOwnAddress : Obligations.CallPushesItsOwnAddress := by
  intro nnn s h
  obtain ⟨hs, hx⟩ := exec_call_of_le nnn h
  refine ⟨_, hx, zext16_toNat nnn, rfl, fun k hk => ?_, s.frame_stack _ _ _⟩
  rw [Vector.getElem_set]
  simp only [eq_comm]

/-- Settles O25: above the bottom RET is the pop, which clears no entry. -/
theorem returnPopsAndAdvancesByTwo : Obligations.ReturnPopsAndAdvancesByTwo := by
  intro s _ hpos
  obtain ⟨lt, hx⟩ := exec_ret_of_pos hpos
  exact ⟨_, hx, rfl, BitVec.toNat_add _ _, rfl, s.frame_stack s.stack _ _⟩

/-- Settles O26: at the two ends of the stack the push and the pop raise. -/
theorem stackFaultsHaltTheCore : Obligations.StackFaultsHaltTheCore := by
  intro s
  exact ⟨fun nnn h => ⟨_, exec_call_of_eq nnn h, s.faultTaken_takeFault .stackOverflow⟩,
    fun h => ⟨_, exec_ret_of_eq h, s.faultTaken_takeFault .stackUnderflow⟩⟩

/-! ### The call with its return -/

/-- A step of a decoded CALL below capacity: at the target, with the CALL's address on the stack, all memory as before. -/
theorem step_call {s : State} {op : Word} {nnn : Imm12} (hr : s.runState = .running) (h : s.sp.val ≤ 15)
    (hf : s.fetch = .ok op) (hd : decode s.cfg.decodeMode op = .instr (.call nnn)) :
    ∃ t, step s = .next t ∧ t.runState = .running ∧ t.pc = zext16 nnn ∧ t.sp.val = s.sp.val + 1 ∧
      t.stack[s.sp.val]'(by omega) = s.pc ∧ t.mem = s.mem ∧ t.cfg = s.cfg := by
  obtain ⟨hs, hx⟩ := exec_call_of_le nnn h
  refine ⟨_, step_of_exec_instr hr hf hd hx, ?_⟩
  simp [hr]

/-- A step of a decoded RET above the bottom: 2 after the popped entry. -/
theorem step_ret {s : State} {op : Word} (hr : s.runState = .running) (h : 1 ≤ s.sp.val)
    (hf : s.fetch = .ok op) (hd : decode s.cfg.decodeMode op = .instr .ret) :
    ∃ t, step s = .next t ∧ t.runState = .running ∧ t.pc = s.stack[s.sp.val - 1]'(by omega) + 2 ∧
      t.sp.val = s.sp.val - 1 := by
  obtain ⟨lt, hx⟩ := exec_ret_of_pos h
  refine ⟨_, step_of_exec_instr hr hf hd hx, ?_⟩
  simp [hr]

/-- Settles O29: the RET pops the entry the CALL pushed, and the address of a fetched CALL plus 2 does not wrap. -/
theorem callThenReturnLandsAfterTheCall : Obligations.CallThenReturnLandsAfterTheCall := by
  intro s op nnn hr hsp hf hd hnnn hret
  obtain ⟨t, ht, htr, htpc, htsp, htop, hmem, hcfg⟩ := step_call hr hsp hf hd
  have hpc_t : t.pc.toNat = nnn.toNat := by rw [htpc, zext16_toNat]
  have hread : ∀ a, t.readByte a = s.readByte a := State.readByte_congr hmem hcfg
  have hft : t.fetch = .ok (wordOfBytes (s.readByte nnn.toNat) (s.readByte (nnn.toNat + 1))) := by
    rw [State.fetch_eq_ok, hpc_t, hread, hread]
    exact ⟨hnnn, rfl⟩
  obtain ⟨u, hu, hur, hupc, husp⟩ := step_ret htr (by omega) hft (by rw [hcfg]; exact hret)
  have hentry : u.pc = s.pc + 2 := by simpa only [htsp, Nat.add_sub_cancel, htop] using hupc
  obtain ⟨hpc, -⟩ := State.fetch_eq_ok.1 hf
  refine ⟨t, u, ht, hu, hur, ?_, Fin.ext (by omega)⟩
  rw [hentry, BitVec.toNat_add]
  exact Nat.mod_eq_of_lt (by simp; omega)

end Sys2Proof.Machine

/-! Arithmetic (42_alu.md), and the skips on a key (45_keypad_timers.md R300 to R302). -/

namespace Sys2Proof.Machine

open Sys2Proof

/-- A write of V[x] and then of VF keeps every other register and everything else. -/
theorem State.frame_writeVFlag (s : State) (x : Reg) (b f : Byte) : Frame [x, regF] [] s (s.writeVFlag x b f) :=
  { (s.writeV x b).frame_writeV regF f with
    v := fun r hr => by
      have hx : r ≠ x := fun h => hr (by simp [h])
      have hF : r ≠ regF := fun h => hr (by simp [h])
      rw [State.readV_writeVFlag, if_neg hF, if_neg hx] }

theorem State.readV_writeVFlag_regF (s : State) (x : Reg) (b f : Byte) : (s.writeVFlag x b f).readV regF = f := by
  rw [State.readV_writeVFlag, if_pos rfl]

theorem State.readV_writeVFlag_dest (s : State) {x : Reg} (b f : Byte) (h : x ≠ regF) :
    (s.writeVFlag x b f).readV x = b := by
  rw [State.readV_writeVFlag, if_neg h, if_pos rfl]

/-- The flag as a number. -/
theorem flagByte_decide_toNat (p : Prop) [Decidable p] : (flagByte (decide p)).toNat = if p then 1 else 0 := by
  by_cases h : p <;> simp [flagByte, h]

/-- A flag that is bit `k` of a byte. -/
theorem flagByte_getLsbD_toNat (b : Byte) (k : Nat) : (flagByte (b.getLsbD k)).toNat = b.toNat / 2 ^ k % 2 := by
  rw [BitVec.getLsbD, Nat.testBit_eq_decide_div_mod_eq, flagByte_decide_toNat]
  split <;> omega

/-- What a write of V[x] and VF answers, for a result and a flag known as numbers (R216). -/
theorem exists_writeVFlag_advance {x : Reg} {s : State} {b f : Byte} {vx vf : Nat} (hf : f.toNat = vf)
    (hb : b.toNat = vx) :
    ∃ t : State, (.next (s.writeVFlag x b f).advance : Result) = .next t ∧ t.pc = s.pc + 2 ∧ Frame [x, regF] [] s t ∧
      (t.readV regF).toNat = vf ∧ (x ≠ regF → (t.readV x).toNat = vx) := by
  refine ⟨_, rfl, rfl, (s.frame_writeVFlag x b f).advance, ?_, fun hx => ?_⟩
  · rw [State.advance_readV, State.readV_writeVFlag_regF, hf]
  · rw [State.advance_readV, State.readV_writeVFlag_dest _ _ _ hx, hb]

/-- Settles O32: the carry is the sum's ninth bit, and VF is written last. -/
theorem addSetsCarry : Obligations.AddSetsCarry := by
  intro x y s
  exact exists_writeVFlag_advance (flagByte_decide_toNat _) (BitVec.toNat_add _ _)

theorem byte_sub_toNat (a b : Byte) : (a - b).toNat = (a.toNat + 256 - b.toNat) % 256 := by
  have hb : b.toNat < 256 := b.isLt
  rw [BitVec.toNat_sub]
  omega

/-- Settles O33: SUB and SUBN are one subtraction with the operands exchanged. -/
theorem subtractionsSetNotBorrow : Obligations.SubtractionsSetNotBorrow := by
  intro x y s
  constructor
  · exact exists_writeVFlag_advance (flagByte_decide_toNat _) (byte_sub_toNat _ _)
  · exact exists_writeVFlag_advance (flagByte_decide_toNat _) (byte_sub_toNat _ _)

theorem shiftedOutRight_toNat (b : Byte) : (flagByte (shiftedOutRight b)).toNat = b.toNat % 2 := by
  rw [shiftedOutRight, flagByte_getLsbD_toNat]
  omega

theorem shiftedOutLeft_toNat (b : Byte) : (flagByte (shiftedOutLeft b)).toNat = b.toNat / 128 := by
  have hb : b.toNat < 256 := b.isLt
  rw [shiftedOutLeft, flagByte_getLsbD_toNat]
  omega

theorem byte_shiftRight_one_toNat (b : Byte) : (b >>> 1).toNat = b.toNat / 2 := by
  rw [BitVec.toNat_ushiftRight, Nat.shiftRight_eq_div_pow]

theorem byte_shiftLeft_one_toNat (b : Byte) : (b <<< 1).toNat = 2 * b.toNat % 256 := by
  rw [BitVec.toNat_shiftLeft, Nat.shiftLeft_eq, Nat.mul_comm]

/-- Settles O34: the source is the operand SHIFT_SOURCE selects, and the flag its bit 0 or bit 7. -/
theorem shiftsLeaveTheBitShiftedOut : Obligations.ShiftsLeaveTheBitShiftedOut := by
  intro x y s src hsrc
  obtain rfl : src = (s.shiftOperand x y).toNat := by
    rw [hsrc, State.shiftOperand]
    cases s.cfg.shiftSource <;> rfl
  constructor
  · exact exists_writeVFlag_advance (shiftedOutRight_toNat _) (byte_shiftRight_one_toNat _)
  · exact exists_writeVFlag_advance (shiftedOutLeft_toNat _) (byte_shiftLeft_one_toNat _)

/-- Settles O31: each writes V[x] once, and the read after the write gives the value bit by bit. -/
theorem copyAndLogicalOperations : Obligations.CopyAndLogicalOperations := by
  intro x y s
  have hframe (b : Byte) : Frame [x] [] s (s.writeV x b).advance := (s.frame_writeV x b).advance
  refine ⟨⟨_, rfl, ?copy, rfl, hframe _⟩, ⟨_, rfl, rfl, hframe _, fun k _ => ?or⟩, ⟨_, rfl, rfl, hframe _, fun k _ => ?and⟩,
    ⟨_, rfl, rfl, hframe _, fun k _ => ?xor⟩⟩
  case copy => exact s.readV_writeV_same x _
  case or => rw [State.advance_readV, State.readV_writeV_same, BitVec.getLsbD_or]
  case and => rw [State.advance_readV, State.readV_writeV_same, BitVec.getLsbD_and]
  case xor => rw [State.advance_readV, State.readV_writeV_same, BitVec.getLsbD_xor]

/-- Settles O35: the input and the mask are combined bit by bit, whatever the input is. -/
theorem randomByteIsMasked : Obligations.RandomByteIsMasked := by
  intro x kk s
  refine ⟨_, rfl, rfl, (s.frame_writeV x _).advance, fun k _ => ?_⟩
  rw [State.advance_readV, State.readV_writeV_same, BitVec.getLsbD_and]

/-- Settles O28: each is a skip on the level of the key that the low nibble names. -/
theorem keySkipsTestTheLowNibbleKey : Obligations.KeySkipsTestTheLowNibbleKey := by
  intro x s
  have hkey : keyPressed s.input.key (s.keyIndex x) = s.input.key.getLsbD ((s.readV x).toNat % 16) :=
    congrArg s.input.key.getLsbD (lowNibble_toNat _)
  constructor
  · exact ⟨_, rfl, s.frame_skipIf _, s.skipIf_pc_toNat (by rw [hkey])⟩
  · exact ⟨_, rfl, s.frame_skipIf _, s.skipIf_pc_toNat_of_not (by rw [hkey, Bool.not_eq_true', Bool.not_eq_true])⟩

end Sys2Proof.Machine

/-! The index register and memory transfers (43_index_memory.md R250 to R256), and the range faults of the four
instructions that check (60_exceptions.md R331). -/

namespace Sys2Proof.Machine

open Sys2Proof

/-- Settles O37: the sum is taken in 16 bits; the glyph address stays below 0x200, so it does not wrap. -/
theorem addToIndexAndGlyphAddress : Obligations.AddToIndexAndGlyphAddress := by
  intro x s
  constructor
  · refine ⟨_, rfl, ?_, rfl, (s.frame_setI _).advance⟩
    rw [State.advance_i, State.setI_i, BitVec.toNat_add, zextReg_toNat]
  · intro hwf
    have hbase : s.cfg.fontBase + 80 ≤ 0x200 := of_decide_eq_true hwf
    refine ⟨_, rfl, ?_, rfl, (s.frame_setI _).advance⟩
    rw [State.advance_i, State.setI_i, State.glyphAddress, lowNibble_toNat, BitVec.toNat_ofNat]
    exact Nat.mod_eq_of_lt (by omega)

/-! ### Transfers in range -/

theorem exec_ldBVx_of_le {x : Reg} {s : State} (h : s.i.toNat + 2 ≤ 4095) :
    exec (.ldBVx x) s = .next (s.writeBytes s.i.toNat (decimalDigits (s.readV x))).advance := by
  obtain ⟨t, ht⟩ := exec_total (.ldBVx x) s
  obtain ⟨hlt, -⟩ | ⟨-, rfl⟩ := execLdBVx_cases ht
  · omega
  · exact ht

theorem exec_ldMemVx_of_le {x : Reg} {s : State} (h : s.i.toNat + x.toNat ≤ 4095) :
    exec (.ldMemVx x) s = .next (s.writeBytes s.i.toNat (s.firstRegs (x.toNat + 1))).advance := by
  obtain ⟨t, ht⟩ := exec_total (.ldMemVx x) s
  obtain ⟨hlt, -⟩ | ⟨-, rfl⟩ := execLdMemVx_cases ht
  · omega
  · exact ht

theorem exec_ldVxMem_of_le {x : Reg} {s : State} (h : s.i.toNat + x.toNat ≤ 4095) :
    exec (.ldVxMem x) s = .next (s.loadRegs s.i.toNat (x.toNat + 1)).advance := by
  obtain ⟨t, ht⟩ := exec_total (.ldVxMem x) s
  obtain ⟨hlt, -⟩ | ⟨-, rfl⟩ := execLdVxMem_cases ht
  · omega
  · exact ht

/-- Byte `k` of a run of bytes inside memory. -/
theorem State.readByte_writeBytes_add (s : State) {a : Nat} {bs : List Byte} {k : Nat} (hk : k < bs.length)
    (h : a + bs.length ≤ memorySize) : (s.writeBytes a bs).readByte (a + k) = bs.getD k 0 := by
  rw [s.readByte_writeBytes a bs _ h, if_pos (by omega), Nat.add_sub_cancel_left]

/-- A byte outside a run. -/
theorem State.readByte_writeBytes_outside (s : State) {a : Nat} {bs : List Byte} {k : Nat}
    (h : a + bs.length ≤ memorySize) (hk : k < a ∨ a + bs.length ≤ k) :
    (s.writeBytes a bs).readByte k = s.readByte k := by
  rw [s.readByte_writeBytes a bs _ h, if_neg (by omega)]

/-- A digit of a byte is a byte. -/
theorem ofNat_toNat_of_le_byte {b : Byte} {n : Nat} (h : n ≤ b.toNat) : (BitVec.ofNat 8 n).toNat = n := by
  have hb : b.toNat < 256 := b.isLt
  rw [BitVec.toNat_ofNat]
  exact Nat.mod_eq_of_lt (by omega)

/-- Settles O38: the three digits are a run of three bytes from I. -/
theorem decimalDigitsStored : Obligations.DecimalDigitsStored := by
  intro x s h
  have hlen : s.i.toNat + (decimalDigits (s.readV x)).length ≤ memorySize := by
    simp only [decimalDigits, memorySize, List.length_cons, List.length_nil]
    omega
  have hdigit (k : Nat) (hk : k < 3) : (s.writeBytes s.i.toNat (decimalDigits (s.readV x))).readByte (s.effective k) =
      (decimalDigits (s.readV x)).getD k 0 := s.readByte_writeBytes_add hk hlen
  refine ⟨_, exec_ldBVx_of_le h, by simp, (s.frame_writeBytes _ _).advance, ?hundreds, ?tens, ?units, fun a ha => ?outside⟩
  case hundreds =>
    rw [State.advance_readByte, hdigit 0 (by decide)]
    exact ofNat_toNat_of_le_byte (b := s.readV x) (by omega)
  case tens =>
    rw [State.advance_readByte, hdigit 1 (by decide)]
    exact ofNat_toNat_of_le_byte (b := s.readV x) (by omega)
  case units =>
    rw [State.advance_readByte, hdigit 2 (by decide)]
    exact ofNat_toNat_of_le_byte (b := s.readV x) (by omega)
  case outside => exact s.readByte_writeBytes_outside hlen ha

/-- Settles O39: V0 to V[x] are a run of bytes from I. -/
theorem registersStoredToMemory : Obligations.RegistersStoredToMemory := by
  intro x s h
  have hx : x.toNat + 1 ≤ 16 := regCount_le x
  have hlength : (s.firstRegs (x.toNat + 1)).length = x.toNat + 1 := s.firstRegs_length hx
  have hlen : s.i.toNat + (s.firstRegs (x.toNat + 1)).length ≤ memorySize := by
    unfold memorySize
    omega
  refine ⟨_, exec_ldMemVx_of_le h, by simp, (s.frame_writeBytes _ _).advance, fun r hr => ?_, fun a ha => ?_⟩
  · rw [State.advance_readByte, State.effective, s.readByte_writeBytes_add (by omega) hlen,
      s.firstRegs_getD (by omega) hx, BitVec.ofNat_toNat, BitVec.setWidth_eq]
  · exact s.readByte_writeBytes_outside hlen (by rw [hlength]; exact ha)

theorem mem_regsUpTo {x r : Reg} : r ∈ regsUpTo x ↔ r.toNat < x.toNat + 1 := by
  simp only [regsUpTo, List.mem_map, List.mem_range]
  constructor
  · rintro ⟨k, hk, rfl⟩
    rw [BitVec.toNat_ofNat]
    exact lt_of_le_of_lt (Nat.mod_le k _) hk
  · exact fun h => ⟨r.toNat, h, by rw [BitVec.ofNat_toNat, BitVec.setWidth_eq]⟩

/-- A load of V0 to V[x] (R256). -/
theorem State.readV_loadRegs_upTo (s : State) (a : Nat) (x r : Reg) : (s.loadRegs a (x.toNat + 1)).readV r =
    if r.toNat < x.toNat + 1 then s.readByte (a + r.toNat) else s.readV r :=
  s.readV_loadRegs a (x.toNat + 1) r (regCount_le x)

/-- A load of V0 to V[x] keeps everything but them. -/
theorem State.frame_loadRegs (s : State) (a : Nat) (x : Reg) : Frame (regsUpTo x) [] s (s.loadRegs a (x.toNat + 1)) := by
  have hv (r : Reg) (hr : r ∉ regsUpTo x) : (s.loadRegs a (x.toNat + 1)).readV r = s.readV r := by
    rw [s.readV_loadRegs_upTo, if_neg (mt mem_regsUpTo.2 hr)]
  obtain ⟨w, hw⟩ := s.loadRegs_eq a (x.toNat + 1)
  rw [hw] at hv ⊢
  exact { s.frame_refl (regsUpTo x) [] with v := hv }

@[simp] theorem State.loadRegs_pc (s : State) (a n : Nat) : (s.loadRegs a n).pc = s.pc := by
  obtain ⟨w, hw⟩ := s.loadRegs_eq a n
  rw [hw]

/-- Settles O40: V0 to V[x] read the bytes from I, and the registers above x are in the frame. -/
theorem registersLoadedFromMemory : Obligations.RegistersLoadedFromMemory := by
  intro x s h
  refine ⟨_, exec_ldVxMem_of_le h, by simp, fun r hr => ?_, (s.frame_loadRegs _ x).advance⟩
  rw [State.advance_readV, s.readV_loadRegs_upTo, if_pos (by omega)]
  rfl

/-! ### Transfers out of range -/

theorem exec_ldBVx_of_lt {x : Reg} {s : State} (h : 4095 < s.i.toNat + 2) :
    exec (.ldBVx x) s = .next (s.takeFault (.address (max s.i.toNat 4096))) := by
  obtain ⟨t, ht⟩ := exec_total (.ldBVx x) s
  obtain ⟨-, rfl⟩ | ⟨hle, -⟩ := execLdBVx_cases ht
  · exact ht
  · omega

theorem exec_ldMemVx_of_lt {x : Reg} {s : State} (h : 4095 < s.i.toNat + x.toNat) :
    exec (.ldMemVx x) s = .next (s.takeFault (.address (max s.i.toNat 4096))) := by
  obtain ⟨t, ht⟩ := exec_total (.ldMemVx x) s
  obtain ⟨-, rfl⟩ | ⟨hle, -⟩ := execLdMemVx_cases ht
  · exact ht
  · omega

theorem exec_ldVxMem_of_lt {x : Reg} {s : State} (h : 4095 < s.i.toNat + x.toNat) :
    exec (.ldVxMem x) s = .next (s.takeFault (.address (max s.i.toNat 4096))) := by
  obtain ⟨t, ht⟩ := exec_total (.ldVxMem x) s
  obtain ⟨-, rfl⟩ | ⟨hle, -⟩ := execLdVxMem_cases ht
  · exact ht
  · omega

theorem exec_drw_of_lt {x y : Reg} {n : Imm4} {s : State} (hn : 0 < n.toNat) (h : 4095 < s.i.toNat + n.toNat - 1) :
    exec (.drw x y n) s = .next (s.takeFault (.address (max s.i.toNat 4096))) := by
  obtain ⟨t, ht⟩ := exec_total (.drw x y n) s
  obtain ⟨-, -, rfl⟩ | ⟨hle, -⟩ := execDrw_cases ht
  · exact ht
  · omega

/-- Settles O41: each check raises the first address out of range before anything is written. -/
theorem transfersOutOfRangeFault : Obligations.TransfersOutOfRangeFault := by
  intro x y n s
  have hfault : FaultTaken s (s.takeFault (.address (max s.i.toNat 4096))) .address (max s.i.toNat 4096) :=
    s.faultTaken_takeFault _
  exact ⟨fun h => ⟨_, exec_ldBVx_of_lt h, hfault⟩,
    fun h => ⟨⟨_, exec_ldMemVx_of_lt h, hfault⟩, ⟨_, exec_ldVxMem_of_lt h, hfault⟩⟩,
    fun hn h => ⟨_, exec_drw_of_lt hn h, hfault⟩⟩

end Sys2Proof.Machine

/-! The sprite draw (44_display.md R281 to R283): the pixels the model flips are those the sprite covers. -/

namespace Sys2Proof.Machine

open Sys2Proof

/-- The cells the draw of the model hits are the cells the sprite covers. -/
theorem spriteCovers_iff_spriteHits {s : State} {x y : Reg} {n : Imm4} {r : Fin 32} {c : Fin 64} :
    SpriteCovers s x y n r c ↔ SpriteHits s s.i.toNat (s.readV x) (s.readV y) n.toNat r c := by
  constructor
  · rintro ⟨k, j, hk, hj, hbit, hcol, hrow⟩
    exact ⟨k, hk, spriteRow_eq_some.2 hrow, j, hj, hbit, hcol⟩
  · rintro ⟨k, hk, hrow, j, hj, hbit, hcol⟩
    exact ⟨k, j, hk, hj, hbit, hcol, spriteRow_eq_some.1 hrow⟩

theorem State.pixel_drawSprite_of_covers {s : State} {x y : Reg} {n : Imm4} {r : Fin 32} {c : Fin 64}
    (h : SpriteCovers s x y n r c) : pixel (s.drawSprite x y n).fb r c = !pixel s.fb r c :=
  (pixel_drawRows s _ _ _ n.toNat ⟨s.fb, false⟩ (by omega) r c).1 (spriteCovers_iff_spriteHits.1 h)

theorem State.pixel_drawSprite_of_not_covers {s : State} {x y : Reg} {n : Imm4} {r : Fin 32} {c : Fin 64}
    (h : ¬SpriteCovers s x y n r c) : pixel (s.drawSprite x y n).fb r c = pixel s.fb r c :=
  (pixel_drawRows s _ _ _ n.toNat ⟨s.fb, false⟩ (by omega) r c).2 (mt spriteCovers_iff_spriteHits.2 h)

/-- The draw collides exactly if it covers a lit pixel. -/
theorem State.drawSprite_hit (s : State) (x y : Reg) (n : Imm4) :
    (s.drawSprite x y n).hit = true ↔ ∃ r c, SpriteCovers s x y n r c ∧ pixel s.fb r c = true := by
  have hhit := drawRows_hit s s.i.toNat (s.readV x) (s.readV y) n.toNat ⟨s.fb, false⟩ (by omega)
  simp only [spriteCovers_iff_spriteHits]
  exact hhit.trans (or_iff_right (by simp))

theorem exec_drw_of_le {x y : Reg} {n : Imm4} {s : State} (h : n.toNat = 0 ∨ s.i.toNat + n.toNat - 1 ≤ 4095) :
    exec (.drw x y n) s = .next
      ((s.setFb (s.drawSprite x y n).fb).writeV regF (flagByte (s.drawSprite x y n).hit)).advance := by
  obtain ⟨t, ht⟩ := exec_total (.drw x y n) s
  obtain ⟨h0, h1, -⟩ | ⟨-, rfl⟩ := execDrw_cases ht
  · omega
  · exact ht

/-- A write of FB and VF keeps everything else. -/
theorem State.frame_setFb_writeV (s : State) (f : Framebuffer) (x : Reg) (b : Byte) :
    Frame [x] [.fb] s ((s.setFb f).writeV x b) :=
  { s.frame_setFb f with v := fun _ hr => (s.setFb f).readV_writeV_ne b (List.ne_of_not_mem_cons hr) }

/-- Settles O43: the draw flips the covered pixels and flags the collision. -/
theorem drawXorsTheSpriteAndReportsCollision : Obligations.DrawXorsTheSpriteAndReportsCollision := by
  intro x y n s h
  have hflag (b : Byte) (f : Framebuffer) : ((s.setFb f).writeV regF b).advance.readV regF = b :=
    State.readV_writeV_same _ _ _
  refine ⟨_, exec_drw_of_le h, rfl, (s.frame_setFb_writeV _ _ _).advance, ?flip, ?keep, ?hit, ?miss⟩
  case flip => exact fun r c => State.pixel_drawSprite_of_covers
  case keep => exact fun r c => State.pixel_drawSprite_of_not_covers
  case hit =>
    intro hlit
    rw [hflag, (s.drawSprite_hit x y n).2 hlit]
    rfl
  case miss =>
    intro hlit
    rw [hflag, Bool.eq_false_iff.2 (mt (s.drawSprite_hit x y n).1 hlit)]
    rfl

/-- What a sprite covers is a matter of I, memory, the parameters and the two coordinates. -/
theorem spriteCovers_congr {s t : State} {x y x' y' : Reg} (hi : t.i = s.i) (hmem : ∀ a, t.readByte a = s.readByte a)
    (hcfg : t.cfg = s.cfg) (hx : t.readV x' = s.readV x) (hy : t.readV y' = s.readV y) (n : Imm4) (r : Fin 32) (c : Fin 64) :
    SpriteCovers t x' y' n r c ↔ SpriteCovers s x y n r c := by
  simp only [SpriteCovers, SpritePixelAt, hi, hmem, hcfg, hx, hy]

/-- Settles O44: both draws cover the same cells, so each of them is flipped twice, and after a first draw on unlit cells
all of them are lit. -/
theorem drawTwiceRestoresTheScreen : Obligations.DrawTwiceRestoresTheScreen := by
  intro x y x' y' n s t u hrun hst ht hx hy htu
  have hrange : n.toNat = 0 ∨ s.i.toNat + n.toNat - 1 ≤ 4095 := by
    obtain ⟨-, -, rfl⟩ | ⟨h, -⟩ := execDrw_cases hst
    · cases ht
    · exact h
  obtain ⟨t', hst', -, hframe, hflip, hkeep, -⟩ := drawXorsTheSpriteAndReportsCollision x y n s hrange
  obtain rfl := Host.Outcome.next.inj (hst.symm.trans hst')
  have hi : t.i = s.i := hframe.i (by decide)
  obtain ⟨hcfg, -⟩ := hframe.own
  have hcover := spriteCovers_congr hi (hframe.mem (by decide)) hcfg hx hy n
  obtain ⟨u', htu', -, -, hflip', hkeep', hhit, hmiss⟩ := drawXorsTheSpriteAndReportsCollision x' y' n t (hi ▸ hrange)
  obtain rfl := Host.Outcome.next.inj (htu.symm.trans htu')
  have hVF : u.readV regF = 1 ↔ ∃ r c, SpriteCovers t x' y' n r c ∧ pixel t.fb r c = true := by
    refine ⟨fun h1 => by_contra fun hno => ?_, hhit⟩
    rw [hmiss hno] at h1
    exact absurd h1 (by decide)
  refine ⟨fun r c => ?_, hVF, fun hunlit => ?_⟩
  · by_cases hc : SpriteCovers s x y n r c
    · rw [hflip' r c ((hcover r c).2 hc), hflip r c hc, Bool.not_not]
    · rw [hkeep' r c (mt (hcover r c).1 hc), hkeep r c hc]
  · rw [hVF]
    refine exists_congr fun r => exists_congr fun c => (and_congr_left' (hcover r c)).trans (and_iff_left_of_imp fun hc => ?_)
    rw [hflip r c hc, hunlit r c hc]
    rfl

end Sys2Proof.Machine

/-! The key-wait (45_keypad_timers.md R304), and over all instructions: who writes VF, and who sees the inputs. -/

namespace Sys2Proof.Machine

open Sys2Proof

/-- The waking keys of the model are the keys that qualify. -/
theorem State.wakingKeys_getLsbD (s : State) {k : Nat} (hk : k < 16) :
    s.wakingKeys.getLsbD k = true ↔ KeyQualifies s k := by
  unfold State.wakingKeys KeyQualifies
  cases s.cfg.keyWaitTrigger
  case level => simp [hk]
  case edge => cases s.wait <;> simp [hk]

theorem exec_ldVxK_of_some {x : Reg} {s : State} {k : Nat} (h : lowestKey s.wakingKeys = some k) :
    exec (.ldVxK x) s = .next (s.endWait x k).advance := by
  simp only [exec, execLdVxK, h]

theorem exec_ldVxK_of_none {x : Reg} {s : State} (h : lowestKey s.wakingKeys = none) :
    exec (.ldVxK x) s = .next s.keepWaiting := by
  simp only [exec, execLdVxK, h]

/-- The end of a wait keeps everything but V[x] and WAIT. -/
theorem State.frame_endWait (s : State) (x : Reg) (k : Nat) : Frame [x] [.keyWait] s (s.endWait x k) :=
  { s.frame_refl [x] [.keyWait] with
    v := fun _ hr => s.readV_writeV_ne (BitVec.ofNat 8 k) (List.ne_of_not_mem_cons hr)
    keyWait := fun h => absurd (List.mem_singleton_self Part.keyWait) h }

/-- Settles O46: the least waking key is the least key that qualifies. -/
theorem keyWaitCompletesWithTheLowestKey : Obligations.KeyWaitCompletesWithTheLowestKey := by
  intro x s k hk hleast
  have hk16 : k < 16 := hk.1
  have hkey : lowestKey s.wakingKeys = some k := by
    refine lowestKey_eq_some.2 ⟨hk16, (s.wakingKeys_getLsbD hk16).2 hk, fun j hj => ?_⟩
    exact Bool.eq_false_iff.2 (mt (s.wakingKeys_getLsbD (by omega)).1 (hleast j hj))
  have hread : (s.endWait x k).readV x = BitVec.ofNat 8 k := s.readV_writeV_same x _
  refine ⟨_, exec_ldVxK_of_some hkey, ?_, rfl, rfl, rfl, (s.frame_endWait x k).advance⟩
  rw [State.advance_readV, hread, BitVec.toNat_ofNat]
  exact Nat.mod_eq_of_lt (by omega)

/-- Another cycle of a wait keeps everything but WAIT and KPREV. -/
theorem State.frame_keepWaiting (s : State) : Frame [] [.keyWait] s s.keepWaiting := by
  unfold State.keepWaiting
  split
  all_goals exact { s.frame_refl [] [.keyWait] with keyWait := fun h => absurd (List.mem_singleton_self Part.keyWait) h }

/-- Settles O47: with no waking key the wait goes on. -/
theorem keyWaitWithoutAKeyStaysWaiting : Obligations.KeyWaitWithoutAKeyStaysWaiting := by
  intro x s hno
  have hkey : lowestKey s.wakingKeys = none :=
    lowestKey_eq_none.2 fun k hk => Bool.eq_false_iff.2 (mt (s.wakingKeys_getLsbD hk).1 (hno k))
  refine ⟨_, exec_ldVxK_of_none hkey, ?_, ?_, fun h => ?_, fun h => ?_, s.frame_keepWaiting⟩
  · unfold State.keepWaiting
    split <;> rfl
  · unfold State.keepWaiting
    split <;> rfl
  · simp only [State.keepWaiting, h]
  · simp only [State.keepWaiting, h]

/-! ### Who writes VF -/

/-- A write that changes VF has VF as its destination. -/
theorem State.eq_regF_of_readV_writeV_ne {s : State} {x : Reg} {b : Byte}
    (h : (s.writeV x b).readV regF ≠ s.readV regF) : x = regF :=
  by_contra fun hx => h (s.readV_writeV_ne b (Ne.symm hx))

/-- A load that changes VF goes up to VF. -/
theorem State.eq_regF_of_readV_loadRegs_ne {s : State} {a : Nat} {x : Reg}
    (h : (s.loadRegs a (x.toNat + 1)).readV regF ≠ s.readV regF) : x = regF := by
  have hx : x.toNat < 16 := x.isLt
  have hupTo : ¬¬regF.toNat < x.toNat + 1 := fun hlt => h (by rw [s.readV_loadRegs_upTo, if_neg hlt])
  have hF : regF.toNat = 15 := rfl
  exact BitVec.eq_of_toNat_eq (by omega)

/-- Settles O54: flag instructions aside, an instruction writes one destination register or none, Fx65 those up to x. -/
theorem flagRegisterWriters : Obligations.FlagRegisterWriters := by
  intro i s t h hne
  cases i
  case ldImm x kk | addImm x kk | rnd x kk | ldReg x y | orReg x y | andReg x y | xorReg x y | ldVxDt x =>
    obtain rfl := Host.Outcome.next.inj h
    obtain rfl := State.eq_regF_of_readV_writeV_ne hne
    simp
  case ldVxK x =>
    obtain ⟨k, -, rfl⟩ | ⟨-, rfl⟩ := execLdVxK_cases h
    · obtain rfl := State.eq_regF_of_readV_writeV_ne hne
      simp
    · exact absurd (s.frame_keepWaiting.v regF (by simp)) hne
  case ldVxMem x =>
    obtain ⟨-, rfl⟩ | ⟨-, rfl⟩ := execLdVxMem_cases h
    · exact absurd rfl hne
    · obtain rfl := State.eq_regF_of_readV_loadRegs_ne hne
      simp
  case addReg | sub | shr | subn | shl | drw => simp
  case ret => obtain ⟨-, rfl⟩ | ⟨_, _, rfl⟩ := execRet_cases h <;> exact absurd rfl hne
  case call => obtain ⟨-, rfl⟩ | ⟨_, rfl⟩ := execCall_cases h <;> exact absurd rfl hne
  case ldBVx =>
    obtain ⟨-, rfl⟩ | ⟨-, rfl⟩ := execLdBVx_cases h
    · exact absurd rfl hne
    · exact absurd ((s.frame_writeBytes _ _).v regF (by simp)) hne
  case ldMemVx =>
    obtain ⟨-, rfl⟩ | ⟨-, rfl⟩ := execLdMemVx_cases h
    · exact absurd rfl hne
    · exact absurd ((s.frame_writeBytes _ _).v regF (by simp)) hne
  all_goals
    obtain rfl := Host.Outcome.next.inj h
    exact absurd rfl hne

/-! ### Who sees the inputs -/

/-- `s` with other inputs supplied. -/
def State.withInputs (s : State) (l : List CycleInput) : State := { s with inputs := l }

theorem State.writeBytes_withInputs (s : State) (l : List CycleInput) (a : Nat) (bs : List Byte) :
    (s.withInputs l).writeBytes a bs = (s.writeBytes a bs).withInputs l := by
  induction bs generalizing s a with
  | nil => rfl
  | cons b bs ih => exact ih (s.writeByte a b) (a + 1)

theorem State.loadRegs_withInputs (s : State) (l : List CycleInput) (a n : Nat) :
    (s.withInputs l).loadRegs a n = (s.loadRegs a n).withInputs l := by
  induction n with
  | zero => rfl
  | succ n ih => rw [State.loadRegs, ih]; rfl

theorem drawRows_withInputs (s : State) (l : List CycleInput) (a : Nat) (x0 y0 : Byte) (n : Nat) (d : Draw) :
    drawRows (s.withInputs l) a x0 y0 n d = drawRows s a x0 y0 n d := by
  induction n with
  | zero => rfl
  | succ n ih => rw [drawRows, ih]; rfl

theorem State.drawSprite_withInputs (s : State) (l : List CycleInput) (x y : Reg) (n : Imm4) :
    (s.withInputs l).drawSprite x y n = s.drawSprite x y n :=
  drawRows_withInputs s l _ _ _ _ _

theorem State.wakingKeys_withInputs {s : State} {l : List CycleInput}
    (h : (s.withInputs l).input.key = s.input.key) : (s.withInputs l).wakingKeys = s.wakingKeys := by
  simp only [State.wakingKeys, h]
  rfl

theorem State.keepWaiting_withInputs {s : State} {l : List CycleInput}
    (h : (s.withInputs l).input.key = s.input.key) : (s.withInputs l).keepWaiting = s.keepWaiting.withInputs l := by
  have hcfg : (s.withInputs l).cfg = s.cfg := rfl
  simp only [State.keepWaiting, h, hcfg]
  cases s.cfg.keyWaitTrigger <;> rfl

/-- Settles O55: every other instruction's meaning is the same update of either state; a range or stack check, a transfer
and a draw do not look at the inputs, and the four that do agree on the input they look at. -/
theorem inputsReadOnlyWhereTheSpecSays : Obligations.InputsReadOnlyWhereTheSpecSays := by
  intro i s t l hkey hrnd h
  change exec i (s.withInputs l) = .next (t.withInputs l)
  change readsKey i = true → (s.withInputs l).input.key = s.input.key at hkey
  change readsRnd i = true → (s.withInputs l).input.rnd = s.input.rnd at hrnd
  cases i
  case ret =>
    obtain ⟨h0, rfl⟩ | ⟨h0, _, rfl⟩ := execRet_cases h
    · exact exec_ret_of_eq (s := s.withInputs l) h0
    · obtain ⟨_, hx⟩ := exec_ret_of_pos (s := s.withInputs l) (Nat.one_le_iff_ne_zero.2 h0)
      exact hx
  case call nnn =>
    obtain ⟨h16, rfl⟩ | ⟨hs, rfl⟩ := execCall_cases h
    · exact exec_call_of_eq nnn (s := s.withInputs l) h16
    · obtain ⟨_, hx⟩ := exec_call_of_le nnn (s := s.withInputs l) (Nat.le_of_lt_succ hs)
      exact hx
  case skp x | sknp x =>
    obtain rfl := Host.Outcome.next.inj h
    simp only [exec, execSkp, execSknp, hkey rfl]
    rfl
  case rnd x kk =>
    obtain rfl := Host.Outcome.next.inj h
    simp only [exec, execRnd, hrnd rfl]
    rfl
  case ldVxK x =>
    have hkeys := State.wakingKeys_withInputs (hkey rfl)
    obtain ⟨k, hk, rfl⟩ | ⟨hk, rfl⟩ := execLdVxK_cases h
    · exact exec_ldVxK_of_some (s := s.withInputs l) (hkeys ▸ hk)
    · rw [exec_ldVxK_of_none (hkeys ▸ hk), State.keepWaiting_withInputs (hkey rfl)]
  case ldBVx x =>
    obtain ⟨hlt, rfl⟩ | ⟨hle, rfl⟩ := execLdBVx_cases h
    · exact exec_ldBVx_of_lt (s := s.withInputs l) hlt
    · exact (exec_ldBVx_of_le (s := s.withInputs l) hle).trans (by rw [State.writeBytes_withInputs]; rfl)
  case ldMemVx x =>
    obtain ⟨hlt, rfl⟩ | ⟨hle, rfl⟩ := execLdMemVx_cases h
    · exact exec_ldMemVx_of_lt (s := s.withInputs l) hlt
    · exact (exec_ldMemVx_of_le (s := s.withInputs l) hle).trans (by rw [State.writeBytes_withInputs]; rfl)
  case ldVxMem x =>
    obtain ⟨hlt, rfl⟩ | ⟨hle, rfl⟩ := execLdVxMem_cases h
    · exact exec_ldVxMem_of_lt (s := s.withInputs l) hlt
    · exact (exec_ldVxMem_of_le (s := s.withInputs l) hle).trans (by rw [State.loadRegs_withInputs]; rfl)
  case drw x y n =>
    obtain ⟨hn, hlt, rfl⟩ | ⟨hle, rfl⟩ := execDrw_cases h
    · exact exec_drw_of_lt (s := s.withInputs l) hn hlt
    · exact (exec_drw_of_le (s := s.withInputs l) hle).trans (by rw [State.drawSprite_withInputs]; rfl)
  all_goals
    obtain rfl := Host.Outcome.next.inj h
    rfl

end Sys2Proof.Machine
